-- ==== Sys2Proof/Word.lean ====
section
/-! DEFINITION. The word and byte types of the block and the plainest bit helpers (spec/00_scope.md R10:
bits are numbered from 0 at the least significant bit, every number is unsigned). -/

namespace Sys2Proof

/-- A peripheral register word (00 R8 `REG_WIDTH = 32`). -/
abbrev Word := BitVec 32

/-- One byte of an I2C transaction (30 R87). -/
abbrev Byte := BitVec 8

/-- `v[i]` of 00 R10. -/
def Word.bit (v : Word) (i : Nat) : Bool := BitVec.getLsbD v i

/-- The one-hot word `1 << i` (30 R89). -/
def Word.oneHot (i : Nat) : Word := (1#32) <<< i

end Sys2Proof
end

