-- ==== Sys2Proof/Config.lean ====
section
/-! DEFINITION. The implementation parameters (spec/00_scope.md R8), the constants the source fixes, the register
labels and address map (10_state.md R32 to R39), the phase table (R37, R38), and the free values. -/

namespace Sys2Proof

/-- The 18 register labels of 10_state.md R32 to R35. -/
inductive Reg where
  | i2cStat | i2cCnt | i2cCon | i2cIe | i2cData | i2cOa | i2cSa
  | gpioFalldet | gpioStatclr
  | intcReset | intcMasken | intcNewirq | intcActive
  | timerReset | timerStatclr | timerOvfie | timerReload | timerRawstat
  deriving DecidableEq, Repr, Inhabited

/-- The 17 labels that always exist (10 R39). -/
def Reg.always : List Reg :=
  [.i2cStat, .i2cCnt, .i2cCon, .i2cIe, .i2cData, .i2cOa, .i2cSa,
   .gpioFalldet, .gpioStatclr,
   .intcReset, .intcMasken, .intcNewirq, .intcActive,
   .timerReset, .timerStatclr, .timerOvfie, .timerReload]

/-- `UNKNOWN_IRQ_POLICY` (92 D9). -/
inductive IrqPolicy where
  | twoWay | flag
  deriving DecidableEq, Repr, Inhabited

/-- `BRAKE_TICK` (92 D13). -/
inductive BrakeTick where
  | sameTick | nextTick
  deriving DecidableEq, Repr, Inhabited

/-- `BYTE_DELAY_MODE` (92 D20); the mode in which the delay is one abstract event is `abstract` here. -/
inductive ByteDelayMode where
  | abstract | timer
  deriving DecidableEq, Repr, Inhabited

/-- Base addresses and register offsets, all OPEN (92 D3). No width is given, so they are natural numbers. -/
structure AddrMap where
  baseI2c : Nat
  baseGpio : Nat
  baseIntc : Nat
  baseTimer : Nat
  offI2cStat : Nat
  offI2cCnt : Nat
  offI2cCon : Nat
  offI2cIe : Nat
  offI2cData : Nat
  offI2cOa : Nat
  offI2cSa : Nat
  offGpioFalldet : Nat
  offGpioStatclr : Nat
  offIntcReset : Nat
  offIntcMasken : Nat
  offIntcNewirq : Nat
  offIntcActive : Nat
  offTimerReset : Nat
  offTimerStatclr : Nat
  offTimerOvfie : Nat
  offTimerReload : Nat
  offTimerRawstat : Nat
  deriving DecidableEq, Repr, Inhabited

/-- `BASE_M + OFF_M_R` (00 R11). -/
def AddrMap.addr (m : AddrMap) : Reg → Nat
  | .i2cStat => m.baseI2c + m.offI2cStat
  | .i2cCnt => m.baseI2c + m.offI2cCnt
  | .i2cCon => m.baseI2c + m.offI2cCon
  | .i2cIe => m.baseI2c + m.offI2cIe
  | .i2cData => m.baseI2c + m.offI2cData
  | .i2cOa => m.baseI2c + m.offI2cOa
  | .i2cSa => m.baseI2c + m.offI2cSa
  | .gpioFalldet => m.baseGpio + m.offGpioFalldet
  | .gpioStatclr => m.baseGpio + m.offGpioStatclr
  | .intcReset => m.baseIntc + m.offIntcReset
  | .intcMasken => m.baseIntc + m.offIntcMasken
  | .intcNewirq => m.baseIntc + m.offIntcNewirq
  | .intcActive => m.baseIntc + m.offIntcActive
  | .timerReset => m.baseTimer + m.offTimerReset
  | .timerStatclr => m.baseTimer + m.offTimerStatclr
  | .timerOvfie => m.baseTimer + m.offTimerOvfie
  | .timerReload => m.baseTimer + m.offTimerReload
  | .timerRawstat => m.baseTimer + m.offTimerRawstat

/-- The labels that exist: the 17 of 10 R39, and TIMER.RAWSTAT only in the Timer byte-delay mode. -/
def Reg.labels (mode : ByteDelayMode) : List Reg :=
  match mode with
  | .abstract => Reg.always
  | .timer => Reg.always ++ [.timerRawstat]

/-- 10 R39: the labels that exist have distinct, 4-byte-aligned addresses. -/
def AddrMap.ok (mode : ByteDelayMode) (m : AddrMap) : Bool :=
  let as := (Reg.labels mode).map m.addr
  as.all (fun a => a % 4 == 0) && decide as.Nodup

/-- A phase label, `enum{P1,P2,P3,P4}` of 10 R23; no other value exists. -/
inductive Phase where
  | p1 | p2 | p3 | p4
  deriving DecidableEq, Repr, Inhabited

/-- The 1-based number of a phase (10 R23). -/
def Phase.toNat : Phase → Nat
  | .p1 => 1
  | .p2 => 2
  | .p3 => 3
  | .p4 => 4

/-- One entry of the phase table: four ordered (register, data) pairs (10 R37). -/
structure PhaseEntry where
  k0 : Byte × Byte
  k1 : Byte × Byte
  k2 : Byte × Byte
  k3 : Byte × Byte
  deriving DecidableEq, Repr, Inhabited

/-- The pairs in emission order. -/
def PhaseEntry.pairs (e : PhaseEntry) : List (Byte × Byte) := [e.k0, e.k1, e.k2, e.k3]

/-- `PHASE_TABLE` (10 R37). -/
structure PhaseTable where
  e1 : PhaseEntry
  e2 : PhaseEntry
  e3 : PhaseEntry
  e4 : PhaseEntry
  deriving DecidableEq, Repr, Inhabited

/-- `PHASE_TABLE[p]` (10 R37). -/
def PhaseTable.entry (t : PhaseTable) : Phase → PhaseEntry
  | .p1 => t.e1
  | .p2 => t.e2
  | .p3 => t.e3
  | .p4 => t.e4

/-- The four channel registers of 10 R38 (a). -/
def channelRegs : List Byte := [0x17#8, 0x13#8, 0x1B#8, 0x1F#8]

/-- 10 R38 (a) to (d) for one entry: four distinct channel registers, two of the data bytes `hi`, the rest `lo`. -/
def PhaseEntry.ok (hi lo : Byte) (e : PhaseEntry) : Bool :=
  e.pairs.all (fun p => channelRegs.contains p.1)
  && decide (e.pairs.map Prod.fst).Nodup
  && e.pairs.all (fun p => p.2 == hi || p.2 == lo)
  && (e.pairs.filter (fun p => p.2 == hi)).length == 2

/-- The channel `ch` is high in the entry. -/
def PhaseEntry.high (hi : Byte) (e : PhaseEntry) (ch : Byte) : Bool := e.pairs.contains (ch, hi)

/-- 10 R38: every entry meets (a) to (d), `hi ≠ lo`, and (e) the high pair rotates along a cyclic order of the channels. -/
def PhaseTable.ok (hi lo : Byte) (t : PhaseTable) : Bool :=
  hi != lo && t.e1.ok hi lo && t.e2.ok hi lo && t.e3.ok hi lo && t.e4.ok hi lo
  && channelRegs.any (fun c0 => channelRegs.any (fun c1 => channelRegs.any (fun c2 => channelRegs.any (fun c3 =>
      decide [c0, c1, c2, c3].Nodup
      && t.e1.high hi c0 && t.e1.high hi c1
      && t.e2.high hi c1 && t.e2.high hi c2
      && t.e3.high hi c2 && t.e3.high hi c3
      && t.e4.high hi c3 && t.e4.high hi c0))))

/-- The parameters of 00 R8 whose value is a default or OPEN. A model takes them as arguments of the step (10 R20). -/
structure Params where
  /-- `UNKNOWN_IRQ_POLICY`. -/
  unknownIrqPolicy : IrqPolicy
  /-- `POLL_BUDGET`. -/
  pollBudget : Option Nat
  /-- `NACK_DETECT`. -/
  nackDetect : Bool
  /-- `BRAKE_TICK`. -/
  brakeTick : BrakeTick
  /-- `BRAKE_DELAY`. -/
  brakeDelay : Bool
  /-- `BYTE_DELAY_MODE`. -/
  byteDelayMode : ByteDelayMode
  /-- `EXTRA_SOURCE`. -/
  extraSource : Option Word
  /-- `TIMER_AUTORELOAD`. -/
  timerAutoreload : Bool
  /-- `STEP_TICKS`. -/
  stepTicks : Word
  /-- `BYTE_TICKS`. -/
  byteTicks : Word
  /-- `TICK_RATE`, in Hz; no rule depends on it (00 R8). -/
  tickRate : Nat
  /-- `PHASE_TABLE`. -/
  phaseTable : PhaseTable
  /-- `HIGH_VAL` (10 R38). -/
  highVal : Byte
  /-- `LOW_VAL` (10 R38). -/
  lowVal : Byte
  /-- `SLAVE_ADDR`. -/
  slaveAddr : Word
  /-- `OWN_ADDR`. -/
  ownAddr : Word
  /-- `BUTTON_LINE`. -/
  buttonLine : Fin 32
  /-- `SRC_WORD_TIMER`. -/
  srcWordTimer : Word
  /-- `SRC_WORD_GPIO`. -/
  srcWordGpio : Word
  /-- `TIMER_CLR_VALUE`. -/
  timerClrValue : Word
  /-- `NEWIRQ_ACK_VALUE`. -/
  newirqAckValue : Word
  /-- `INTC_RESET_VALUE`. -/
  intcResetValue : Word
  /-- `MASKEN_TIMER_VALUE`. -/
  maskenTimerValue : Word
  /-- `MASKEN_GPIO_VALUE`. -/
  maskenGpioValue : Word
  /-- `TIMER_RESET_VALUE`. -/
  timerResetValue : Word
  /-- `OVFIE_VALUE`. -/
  ovfieValue : Word
  /-- `OVF_BIT`; it matters only with `byteDelayMode = timer`. -/
  ovfBit : Fin 32
  /-- `NACK_BIT`; it matters only with `nackDetect` (41 R127). -/
  nackBit : Fin 32
  /-- `DONE_BIT`; it matters only with `nackDetect` (41 R127). -/
  doneBit : Fin 32
  /-- `PWM_SETUP_SEQ`. -/
  pwmSetupSeq : List (Byte × Byte)
  /-- Base addresses and offsets. -/
  addrs : AddrMap
  deriving DecidableEq, Repr

/-- The setup registers of 00 R8 for `PWM_SETUP_SEQ`. -/
def setupRegs : List Byte := [0x00#8, 0xFE#8, 0x01#8, 0x0F#8, 0x23#8]

/-- The constraints the spec puts on the parameters: 00 R8 (source words, budget, setup registers), 10 R38 (phase
table), 10 R39 (addresses), 10 R35 (a nonzero `OVFIE_VALUE`). DEDUCED: with `NACK_DETECT`, the two status bits are
distinct and neither is the BB bit (log 32). -/
def Params.ok (c : Params) : Bool :=
  !c.srcWordTimer.bit 2 && c.srcWordGpio.bit 2
  && (match c.pollBudget with | none => true | some b => decide (1 ≤ b))
  && c.phaseTable.ok c.highVal c.lowVal
  && c.pwmSetupSeq.all (fun p => setupRegs.contains p.1)
  && c.ovfieValue != 0#32
  && (c.nackBit.val != 12 && c.doneBit.val != 12 && c.nackBit != c.doneBit)
  && c.addrs.ok c.byteDelayMode

namespace Config

/-- `STEP_LIMIT` (00 R8). -/
def stepLimit : Nat := 200
/-- `I2C_BYTE_COUNT` as the word written to I2C.CNT (30 R84). -/
def cnt2Word : Word := 0x00000002#32
/-- `I2C_CON_XFER` (30 R83). -/
def conXferWord : Word := 0x00008603#32
/-- `I2C_CON_INIT` (30 R83). -/
def conInitWord : Word := 0x00008000#32
/-- `I2C_IE_XRDY` (30 R85). -/
def ieXrdyWord : Word := 0x00000010#32
/-- `I2C_BB_BIT` (30 R82). -/
def bbBit : Nat := 12
/-- `SRC_SELECT_BIT` (30 R81). -/
def srcSelectBit : Nat := 2
/-- `BRAKE_REG` (30 R97). -/
def brakeReg : Byte := 0xFD#8
/-- `BRAKE_ON_DATA` (30 R97). -/
def brakeOnData : Byte := 0x10#8
/-- `BRAKE_OFF_DATA` (30 R97). -/
def brakeOffData : Byte := 0x00#8

/-- FREE VALUE. The values a peripheral register holds where the spec calls it unspecified after a write (60 R216:
TIMER.RESET leaves `count` and `reload` unspecified). Applied to the counter `State.fresh`. Log 12. -/
opaque freeWord : Nat → Word

/-! The OPEN parameters: constants without a body, so nothing can be proved of their values. Log 2. -/

/-- FREE. `TIMER_AUTORELOAD`. -/
opaque openAutoreload : Bool
/-- FREE. `STEP_TICKS`. -/
opaque openStepTicks : Word
/-- FREE. `BYTE_TICKS`. -/
opaque openByteTicks : Word
/-- FREE. `TICK_RATE`. -/
opaque openTickRate : Nat
/-- FREE. `PHASE_TABLE`. -/
opaque openPhaseTable : PhaseTable
/-- FREE. `HIGH_VAL`. -/
opaque openHighVal : Byte
/-- FREE. `LOW_VAL`. -/
opaque openLowVal : Byte
/-- FREE. `SLAVE_ADDR`. -/
opaque openSlaveAddr : Word
/-- FREE. `OWN_ADDR`. -/
opaque openOwnAddr : Word
/-- FREE. `BUTTON_LINE`. -/
opaque openButtonLine : Fin 32
/-- FREE. `SRC_WORD_TIMER`, all bits but bit 2. -/
opaque openSrcTimer : Word
/-- FREE. `SRC_WORD_GPIO`, all bits but bit 2. -/
opaque openSrcGpio : Word
/-- FREE. `TIMER_CLR_VALUE`. -/
opaque openTimerClr : Word
/-- FREE. `NEWIRQ_ACK_VALUE`. -/
opaque openNewirqAck : Word
/-- FREE. `INTC_RESET_VALUE`. -/
opaque openIntcReset : Word
/-- FREE. `MASKEN_TIMER_VALUE`. -/
opaque openMaskenTimer : Word
/-- FREE. `MASKEN_GPIO_VALUE`. -/
opaque openMaskenGpio : Word
/-- FREE. `TIMER_RESET_VALUE`. -/
opaque openTimerReset : Word
/-- FREE. `OVFIE_VALUE`. -/
opaque openOvfie : Word
/-- FREE. `OVF_BIT`. -/
opaque openOvfBit : Fin 32
/-- FREE. `NACK_BIT`. -/
opaque openNackBit : Fin 32
/-- FREE. `DONE_BIT`. -/
opaque openDoneBit : Fin 32
/-- FREE. `PWM_SETUP_SEQ`. -/
opaque openPwmSetup : List (Byte × Byte)
/-- FREE. Base addresses and offsets. -/
opaque openAddrs : AddrMap

/-- The test table `PT_X` of 95_test_vectors.md section 1, which meets 10 R38; not a claim about the device. -/
def ptX : PhaseTable where
  e1 := ⟨(0x17, 0x10), (0x13, 0x10), (0x1B, 0x00), (0x1F, 0x00)⟩
  e2 := ⟨(0x17, 0x00), (0x13, 0x10), (0x1B, 0x10), (0x1F, 0x00)⟩
  e3 := ⟨(0x17, 0x00), (0x13, 0x00), (0x1B, 0x10), (0x1F, 0x10)⟩
  e4 := ⟨(0x17, 0x10), (0x13, 0x00), (0x1B, 0x00), (0x1F, 0x10)⟩

/-- Some address map that meets 10 R39; a fallback and a test value, not a claim about the device. -/
def someAddrs : AddrMap where
  baseI2c := 0x1000
  baseGpio := 0x2000
  baseIntc := 0x3000
  baseTimer := 0x4000
  offI2cStat := 0
  offI2cCnt := 4
  offI2cCon := 8
  offI2cIe := 12
  offI2cData := 16
  offI2cOa := 20
  offI2cSa := 24
  offGpioFalldet := 0
  offGpioStatclr := 4
  offIntcReset := 0
  offIntcMasken := 4
  offIntcNewirq := 8
  offIntcActive := 12
  offTimerReset := 0
  offTimerStatclr := 4
  offTimerOvfie := 8
  offTimerReload := 12
  offTimerRawstat := 16

/-- The launch parameters `State.reset` carries: the defaults of 00 R8, and the free constants for the OPEN rows. A
free constant that does not meet the spec's constraint on its row is replaced by a value that does (`ptX`,
`someAddrs`, …), so that `launch` ranges over parameters that meet `Params.ok` and over nothing else. Log 2. -/
def launch : Params where
  unknownIrqPolicy := .twoWay
  pollBudget := none
  nackDetect := false
  brakeTick := .sameTick
  brakeDelay := false
  byteDelayMode := .abstract
  extraSource := none
  timerAutoreload := openAutoreload
  stepTicks := openStepTicks
  byteTicks := openByteTicks
  tickRate := openTickRate
  phaseTable := if openPhaseTable.ok openHighVal openLowVal then openPhaseTable else ptX
  highVal := if openPhaseTable.ok openHighVal openLowVal then openHighVal else 0x10#8
  lowVal := if openPhaseTable.ok openHighVal openLowVal then openLowVal else 0x00#8
  slaveAddr := openSlaveAddr
  ownAddr := openOwnAddr
  buttonLine := openButtonLine
  srcWordTimer := openSrcTimer &&& ~~~4#32
  srcWordGpio := openSrcGpio ||| 4#32
  timerClrValue := openTimerClr
  newirqAckValue := openNewirqAck
  intcResetValue := openIntcReset
  maskenTimerValue := openMaskenTimer
  maskenGpioValue := openMaskenGpio
  timerResetValue := openTimerReset
  ovfieValue := if openOvfie = 0#32 then 1#32 else openOvfie
  ovfBit := openOvfBit
  nackBit :=
    if openNackBit.val ≠ 12 ∧ openDoneBit.val ≠ 12 ∧ openNackBit ≠ openDoneBit then openNackBit else 1
  doneBit :=
    if openNackBit.val ≠ 12 ∧ openDoneBit.val ≠ 12 ∧ openNackBit ≠ openDoneBit then openDoneBit else 2
  pwmSetupSeq := openPwmSetup.filter (fun p => setupRegs.contains p.1)
  addrs := if openAddrs.ok .abstract then openAddrs else someAddrs

end Config

end Sys2Proof
end

