-- ==== Sys2Proof/Syntax.lean ====
section
/-! DEFINITION. The instructions: one constructor per row of spec/opcode_table.json (30_encoding.md R91), in the
table's order, and the encoded forms they are read from. -/

namespace Sys2Proof

/-- `purpose` of 44 R170. -/
inductive Purpose where
  | stepAdvance | byteSpacing
  deriving DecidableEq, Repr

/-- One row of the opcode table each. A row for a word that is read holds the whole word. -/
inductive Instr where
  /-- `DISPATCH_TIMER` (40 R104): the source word `w`, bit 2 clear. -/
  | dispatchTimer (w : Word)
  /-- `DISPATCH_GPIO` (40 R103): the source word `w`, bit 2 set. -/
  | dispatchGpio (w : Word)
  /-- `DISPATCH_UNKNOWN` (40 R105): an unrecognised source word, Flag only. -/
  | dispatchUnknown (w : Word)
  /-- `BUSY` (41 R121): a status word with bit 12 set. -/
  | busy (v : Word)
  /-- `FREE` (41 R121): a status word with bit 12 clear. -/
  | free (v : Word)
  /-- `CON_XFER` (41 R123). -/
  | conXfer
  /-- `CON_INIT` (44 R175). -/
  | conInit
  /-- `CNT_2` (41 R122). -/
  | cnt2
  /-- `IE_XRDY` (41 R124). -/
  | ieXrdy
  /-- `DATA_BYTE` (41 R125). -/
  | dataByte (b : Byte)
  /-- `RELOAD_WORD` (44 R170). -/
  | reloadWord (v : Word)
  /-- `GPIO_CLR` (44 R172). -/
  | gpioClr
  /-- `TIMER_CLR` (44 R171). -/
  | timerClr
  /-- `NEWIRQ_ACK` (44 R173). -/
  | newirqAck
  /-- `I2C_OA` (44 R175). -/
  | i2cOa
  /-- `I2C_SA` (44 R175). -/
  | i2cSa
  /-- `GPIO_FALLDET` (44 R176). -/
  | gpioFalldet
  /-- `INTC_RESET` (44 R177). -/
  | intcReset
  /-- `INTC_MASKEN` (44 R177): one of the two mask-enable words. -/
  | intcMasken (v : Word)
  /-- `TIMER_RESET` (44 R178). -/
  | timerReset
  /-- `TIMER_OVFIE` (44 R178). -/
  | timerOvfie
  /-- `RAW_OVF` (44 R174): a raw status word with bit `OVF_BIT` set. -/
  | rawOvf (v : Word)
  /-- `PHASE_CH_17` (42 R143). -/
  | phaseCh17 (d : Byte)
  /-- `PHASE_CH_13` (42 R143). -/
  | phaseCh13 (d : Byte)
  /-- `PHASE_CH_1B` (42 R143). -/
  | phaseCh1b (d : Byte)
  /-- `PHASE_CH_1F` (42 R143). -/
  | phaseCh1f (d : Byte)
  /-- `BRAKE_ALL_OFF` (42 R147). -/
  | brakeAllOff
  /-- `BRAKE_RELEASE` (42 R147). -/
  | brakeRelease
  /-- `SETUP_MODE1` (44 R179). -/
  | setupMode1 (d : Byte)
  /-- `SETUP_PRESCALE` (44 R179). -/
  | setupPrescale (d : Byte)
  /-- `SETUP_MODE2` (44 R179). -/
  | setupMode2 (d : Byte)
  /-- `SETUP_CH_0F` (44 R179). -/
  | setupCh0f (d : Byte)
  /-- `SETUP_CH_23` (44 R179). -/
  | setupCh23 (d : Byte)
  /-- `DISPATCH` (40 R100). -/
  | dispatch
  /-- `READ_SRC` (40 R101). -/
  | readSrc
  /-- `DECODE_SRC` (40 R102), on the word READ_SRC left in the dispatcher's local. -/
  | decodeSrc
  /-- `EXC_RETURN` (40 R106). -/
  | excReturn
  /-- `WRITE` (41 R120). -/
  | write (a d : Byte)
  /-- `POLL_BUSY` (41 R121). -/
  | pollBusy (a : Byte)
  /-- `SET_COUNT` (41 R122). -/
  | setCount
  /-- `XRDY_ENABLE` (41 R124). -/
  | xrdyEnable
  /-- `DATA_WRITE` (41 R125). -/
  | dataWrite (b : Byte)
  /-- `COMPLETE_CHECK` (41 R127). -/
  | completeCheck (a : Byte)
  /-- `TICK` (42 R140). -/
  | tick
  /-- `TICK_IDLE` (42 R141). -/
  | tickIdle
  /-- `TICK_STEP` (42 R142). -/
  | tickStep
  /-- `EMIT_PHASE` (42 R143). -/
  | emitPhase (p : Phase)
  /-- `ADVANCE_PHASE` (42 R144). -/
  | advancePhase
  /-- `COUNT_STEP` (42 R145). -/
  | countStep
  /-- `TICK_BRAKE` (42 R146). -/
  | tickBrake
  /-- `BRAKE` (42 R147). -/
  | brake
  /-- `RESET_TO_IDLE` (42 R148). -/
  | resetToIdle
  /-- `FAIL_STEP` (42 R149). -/
  | failStep
  /-- `BUTTON` (43 R160). -/
  | button
  /-- `ARM` (43 R161). -/
  | arm
  /-- `BUTTON_IGNORED` (43 R162). -/
  | buttonIgnored
  /-- `TIMER_PROGRAM` (44 R170). -/
  | timerProgram (n : Word) (purpose : Purpose)
  /-- `TIMER_STATUS_CLEAR` (44 R171). -/
  | timerStatusClear
  /-- `GPIO_STATUS_CLEAR` (44 R172). -/
  | gpioStatusClear
  /-- `DELAY_BYTE` (44 R174). -/
  | delayByte
  /-- `I2C_INIT` (44 R175). -/
  | i2cInit
  /-- `GPIO_EDGE_CONFIG` (44 R176). -/
  | gpioEdgeConfig
  /-- `INTC_CONFIG` (44 R177). -/
  | intcConfig
  /-- `TIMER_CONFIG` (44 R178). -/
  | timerConfig
  /-- `PWM_SETUP` (44 R179). -/
  | pwmSetup
  /-- `ENABLE_INTERRUPTS` (44 R180). -/
  | enableInterrupts
  /-- `DISABLE_INTERRUPTS` (44 R181). -/
  | disableInterrupts
  /-- `TRAP_ENTRY` (60 R209). -/
  | trapEntry
  deriving DecidableEq, Repr

/-- The formats of 30 R80. -/
inductive Format where
  | src | stat | con | cnt | ie | data | xact | reload | gpioclr | paramword | op
  deriving DecidableEq, Repr

/-- An encoded form: a word at a register (read from it or written to it), or a transaction's two bytes in wire order
(20 R61, 30 R87). The spec forbids assuming a byte order for register words (20 R60), so a word is whole. -/
inductive Code where
  | reg (r : Reg) (w : Word)
  | xact (a d : Byte)
  deriving DecidableEq, Repr

/-- The format column of the opcode table. -/
def Instr.format : Instr → Format
  | .dispatchTimer _ => .src
  | .dispatchGpio _ => .src
  | .dispatchUnknown _ => .src
  | .busy _ => .stat
  | .free _ => .stat
  | .conXfer => .con
  | .conInit => .con
  | .cnt2 => .cnt
  | .ieXrdy => .ie
  | .dataByte _ => .data
  | .reloadWord _ => .reload
  | .gpioClr => .gpioclr
  | .timerClr => .paramword
  | .newirqAck => .paramword
  | .i2cOa => .paramword
  | .i2cSa => .paramword
  | .gpioFalldet => .paramword
  | .intcReset => .paramword
  | .intcMasken _ => .paramword
  | .timerReset => .paramword
  | .timerOvfie => .paramword
  | .rawOvf _ => .paramword
  | .phaseCh17 _ => .xact
  | .phaseCh13 _ => .xact
  | .phaseCh1b _ => .xact
  | .phaseCh1f _ => .xact
  | .brakeAllOff => .xact
  | .brakeRelease => .xact
  | .setupMode1 _ => .xact
  | .setupPrescale _ => .xact
  | .setupMode2 _ => .xact
  | .setupCh0f _ => .xact
  | .setupCh23 _ => .xact
  | .dispatch => .op
  | .readSrc => .op
  | .decodeSrc => .op
  | .excReturn => .op
  | .write _ _ => .op
  | .pollBusy _ => .op
  | .setCount => .op
  | .xrdyEnable => .op
  | .dataWrite _ => .op
  | .completeCheck _ => .op
  | .tick => .op
  | .tickIdle => .op
  | .tickStep => .op
  | .emitPhase _ => .op
  | .advancePhase => .op
  | .countStep => .op
  | .tickBrake => .op
  | .brake => .op
  | .resetToIdle => .op
  | .failStep => .op
  | .button => .op
  | .arm => .op
  | .buttonIgnored => .op
  | .timerProgram _ _ => .op
  | .timerStatusClear => .op
  | .gpioStatusClear => .op
  | .delayByte => .op
  | .i2cInit => .op
  | .gpioEdgeConfig => .op
  | .intcConfig => .op
  | .timerConfig => .op
  | .pwmSetup => .op
  | .enableInterrupts => .op
  | .disableInterrupts => .op
  | .trapEntry => .op

end Sys2Proof
end

