-- ==== Sys2Proof/WellFormed.lean ====
section
/-! DEFINITION. Which instructions are rows of the opcode table under given parameters: the bits a row fixes, the
values it allows in its fields, and the configurations in which it exists (30_encoding.md R91, R92). -/

namespace Sys2Proof

/-- 30 R92: in TwoWay every source word is recognised; in Flag only the two wired words are. -/
def Params.recognises (c : Params) (w : Word) : Bool :=
  c.unknownIrqPolicy == .twoWay || w == c.srcWordTimer || w == c.srcWordGpio

/-- 30 R91: the data byte of a phase transaction is `HIGH_VAL` or `LOW_VAL`. -/
def Params.isDrive (c : Params) (d : Byte) : Bool := d == c.highVal || d == c.lowVal

/-- The checks of the rows that have one; every other row is well-formed as it stands. -/
def Instr.WellFormed (c : Params) : Instr → Bool
  | .dispatchTimer w => !w.bit Config.srcSelectBit && c.recognises w
  | .dispatchGpio w => w.bit Config.srcSelectBit && c.recognises w
  | .dispatchUnknown w => !c.recognises w
  | .busy v => v.bit Config.bbBit
  | .free v => !v.bit Config.bbBit
  | .intcMasken v => v == c.maskenTimerValue || v == c.maskenGpioValue
  | .rawOvf v => c.byteDelayMode == .timer && v.bit c.ovfBit
  | .phaseCh17 d => c.isDrive d
  | .phaseCh13 d => c.isDrive d
  | .phaseCh1b d => c.isDrive d
  | .phaseCh1f d => c.isDrive d
  | .completeCheck _ => c.nackDetect
  | _ => true

end Sys2Proof
end

