-- ==== Sys2Proof/Decode.lean ====
section
/-! DEFINITION. The decoder and encoder of the three kinds of encoding of 30_encoding.md: source and status words
read, register words written, and transactions. Which row a word is depends on the register it is read from or
written to (30 R80, R91), so the decoder takes a `Code`. Operations (format OP) have no word. -/

namespace Sys2Proof

/-- Why a code is no row of the opcode table (30 R93). -/
inductive Reject where
  /-- No row gives this word a meaning at this register. -/
  | unlistedWord (r : Reg) (w : Word)
  /-- No XACT row has this address byte, or this data byte where the row fixes it. -/
  | unlistedXact (a d : Byte)
  deriving DecidableEq, Repr

/-- `DECODE_SRC`'s answers (40 R102). -/
inductive SrcClass where
  | timer | gpio | unknown
  deriving DecidableEq, Repr

/-- `DECODE_SRC(w)` of 40 R102. -/
def classifySrc (c : Params) (w : Word) : SrcClass :=
  if c.unknownIrqPolicy = .flag ∧ w ≠ c.srcWordTimer ∧ w ≠ c.srcWordGpio then .unknown
  else if w.bit Config.srcSelectBit then .gpio
  else .timer

/-- The SRC row a source word selects (30 R91). -/
def srcRow (c : Params) (w : Word) : Instr :=
  match classifySrc c w with
  | .timer => .dispatchTimer w
  | .gpio => .dispatchGpio w
  | .unknown => .dispatchUnknown w

/-- The STAT row a status word selects: bit 12 alone decides (30 R82). -/
def statRow (v : Word) : Instr := if v.bit Config.bbBit then .busy v else .free v

/-- The one-hot word of the button line (30 R89). -/
def buttonWord (c : Params) : Word := Word.oneHot c.buttonLine

/-- `zext_32` of a byte, the DATA format (30 R86). -/
def dataWord (b : Byte) : Word := BitVec.setWidth 32 b

/-- The byte in bits 7 to 0 (30 R86). -/
def lowByte (w : Word) : Byte := BitVec.setWidth 8 w

/-- The XACT row of the two bytes, by the match and mask of the opcode table. -/
def xactRow (a d : Byte) : Option Instr :=
  if a = 0x17#8 then some (.phaseCh17 d)
  else if a = 0x13#8 then some (.phaseCh13 d)
  else if a = 0x1B#8 then some (.phaseCh1b d)
  else if a = 0x1F#8 then some (.phaseCh1f d)
  else if a = Config.brakeReg then
    if d = Config.brakeOnData then some .brakeAllOff
    else if d = Config.brakeOffData then some .brakeRelease
    else none
  else if a = 0x00#8 then some (.setupMode1 d)
  else if a = 0xFE#8 then some (.setupPrescale d)
  else if a = 0x01#8 then some (.setupMode2 d)
  else if a = 0x0F#8 then some (.setupCh0f d)
  else if a = 0x23#8 then some (.setupCh23 d)
  else none

/-- CON words: exactly the two literals (30 R83). -/
def conRow (w : Word) : Option Instr :=
  if w = Config.conXferWord then some .conXfer
  else if w = Config.conInitWord then some .conInit
  else none

/-- CNT word (30 R84). -/
def cntRow (w : Word) : Option Instr := if w = Config.cnt2Word then some .cnt2 else none

/-- IE word (30 R85). -/
def ieRow (w : Word) : Option Instr := if w = Config.ieXrdyWord then some .ieXrdy else none

/-- DATA words: bits 31 to 8 are 0 (30 R86). -/
def dataRow (w : Word) : Option Instr :=
  if w = dataWord (lowByte w) then some (.dataByte (lowByte w)) else none

/-- A row whose whole word is `p`. -/
def wholeRow (p : Word) (i : Instr) (w : Word) : Option Instr := if w = p then some i else none

/-- The row of a word at a register (30 R91). -/
def regRow (c : Params) (r : Reg) (w : Word) : Option Instr :=
  match r with
  | .intcActive => some (srcRow c w)
  | .i2cStat => some (statRow w)
  | .i2cCon => conRow w
  | .i2cCnt => cntRow w
  | .i2cIe => ieRow w
  | .i2cData => dataRow w
  | .timerReload => some (.reloadWord w)
  | .gpioStatclr => wholeRow (buttonWord c) .gpioClr w
  | .timerStatclr => wholeRow c.timerClrValue .timerClr w
  | .intcNewirq => wholeRow c.newirqAckValue .newirqAck w
  | .i2cOa => wholeRow c.ownAddr .i2cOa w
  | .i2cSa => wholeRow c.slaveAddr .i2cSa w
  | .gpioFalldet => wholeRow (buttonWord c) .gpioFalldet w
  | .intcReset => wholeRow c.intcResetValue .intcReset w
  | .intcMasken =>
    if w = c.maskenTimerValue ∨ w = c.maskenGpioValue then some (.intcMasken w) else none
  | .timerReset => wholeRow c.timerResetValue .timerReset w
  | .timerOvfie => wholeRow c.ovfieValue .timerOvfie w
  | .timerRawstat =>
    if c.byteDelayMode = .timer ∧ w.bit c.ovfBit = true then some (.rawOvf w) else none

/-- The decoder: total, and it rejects by name what 30 R93 leaves without meaning. -/
def decode (c : Params) : Code → Except Reject Instr
  | .reg r w =>
    match regRow c r w with
    | some i => .ok i
    | none => .error (.unlistedWord r w)
  | .xact a d =>
    match xactRow a d with
    | some i => if i.WellFormed c then .ok i else .error (.unlistedXact a d)
    | none => .error (.unlistedXact a d)

/-- The encoder: the word and its register, or the transaction, that a row stands for; `none` for format OP. -/
def encode (c : Params) : Instr → Option Code
  | .dispatchTimer w => some (.reg .intcActive w)
  | .dispatchGpio w => some (.reg .intcActive w)
  | .dispatchUnknown w => some (.reg .intcActive w)
  | .busy v => some (.reg .i2cStat v)
  | .free v => some (.reg .i2cStat v)
  | .conXfer => some (.reg .i2cCon 0x00008603#32)
  | .conInit => some (.reg .i2cCon 0x00008000#32)
  | .cnt2 => some (.reg .i2cCnt 0x00000002#32)
  | .ieXrdy => some (.reg .i2cIe 0x00000010#32)
  | .dataByte b => some (.reg .i2cData (dataWord b))
  | .reloadWord v => some (.reg .timerReload v)
  | .gpioClr => some (.reg .gpioStatclr (buttonWord c))
  | .timerClr => some (.reg .timerStatclr c.timerClrValue)
  | .newirqAck => some (.reg .intcNewirq c.newirqAckValue)
  | .i2cOa => some (.reg .i2cOa c.ownAddr)
  | .i2cSa => some (.reg .i2cSa c.slaveAddr)
  | .gpioFalldet => some (.reg .gpioFalldet (buttonWord c))
  | .intcReset => some (.reg .intcReset c.intcResetValue)
  | .intcMasken v => some (.reg .intcMasken v)
  | .timerReset => some (.reg .timerReset c.timerResetValue)
  | .timerOvfie => some (.reg .timerOvfie c.ovfieValue)
  | .rawOvf v => some (.reg .timerRawstat v)
  | .phaseCh17 d => some (.xact 0x17#8 d)
  | .phaseCh13 d => some (.xact 0x13#8 d)
  | .phaseCh1b d => some (.xact 0x1B#8 d)
  | .phaseCh1f d => some (.xact 0x1F#8 d)
  | .brakeAllOff => some (.xact 0xFD#8 0x10#8)
  | .brakeRelease => some (.xact 0xFD#8 0x00#8)
  | .setupMode1 d => some (.xact 0x00#8 d)
  | .setupPrescale d => some (.xact 0xFE#8 d)
  | .setupMode2 d => some (.xact 0x01#8 d)
  | .setupCh0f d => some (.xact 0x0F#8 d)
  | .setupCh23 d => some (.xact 0x23#8 d)
  | .dispatch => none
  | .readSrc => none
  | .decodeSrc => none
  | .excReturn => none
  | .write _ _ => none
  | .pollBusy _ => none
  | .setCount => none
  | .xrdyEnable => none
  | .dataWrite _ => none
  | .completeCheck _ => none
  | .tick => none
  | .tickIdle => none
  | .tickStep => none
  | .emitPhase _ => none
  | .advancePhase => none
  | .countStep => none
  | .tickBrake => none
  | .brake => none
  | .resetToIdle => none
  | .failStep => none
  | .button => none
  | .arm => none
  | .buttonIgnored => none
  | .timerProgram _ _ => none
  | .timerStatusClear => none
  | .gpioStatusClear => none
  | .delayByte => none
  | .i2cInit => none
  | .gpioEdgeConfig => none
  | .intcConfig => none
  | .timerConfig => none
  | .pwmSetup => none
  | .enableInterrupts => none
  | .disableInterrupts => none
  | .trapEntry => none

/-- The table packs a transaction as `A ++ D`, A in bits 15 to 8 (30 R87). -/
def packXact (a d : Byte) : Nat := a.toNat * 256 + d.toNat

/-- The transaction a packed number stands for. -/
def unpackXact (w : Nat) : Byte × Byte := (BitVec.ofNat 8 (w / 256), BitVec.ofNat 8 w)

/-- A source word by the table's own mask, bit 2 alone (30 R91, the TwoWay rows). -/
def srcTableRow (w : Word) : Instr :=
  if w.bit Config.srcSelectBit then .dispatchGpio w else .dispatchTimer w

/-- The host's table word. The table gives a row's bits without the register they belong to, so the format is picked
by how many bits the row has (log 7): none a reload word (the row that fixes no bit), up to one byte a source word
(bit 2 is fixed), up to two bytes a transaction or the word of BUSY with its open bits 0, and up to four bytes a CON,
CNT, IE or DATA word and otherwise a reload word. A transaction outside the XACT rows is rejected (30 R93), by the
table's own masks. Rows whose word is an OPEN parameter have no table bits. -/
def decodeTableWord (nbits w : Nat) : Option Instr :=
  if 32 < nbits then none
  else if 2 ^ nbits ≤ w then none
  else
    let x : Word := BitVec.ofNat 32 w
    if nbits = 0 then some (.reloadWord x)
    else if nbits ≤ 8 then some (srcTableRow x)
    else if nbits ≤ 16 then
      match xactRow (unpackXact w).1 (unpackXact w).2 with
      | some i => some i
      | none => if w = 0x1000 then some (.busy x) else none
    else
      match conRow x with
      | some i => some i
      | none =>
        match cntRow x with
        | some i => some i
        | none =>
          match ieRow x with
          | some i => some i
          | none =>
            match dataRow x with
            | some i => some i
            | none => some (.reloadWord x)

end Sys2Proof
end

