-- ==== Sys2Proof/Machine/State.lean ====
section
/-! DEFINITION. The machine's state as plain data (spec/10_state.md), the reasons a step can stop, and the state after
reset. INVENTORY.md lists every field with its rule and its reset value. -/

namespace Sys2Proof.Machine

/-- The fault records of 60 R200: entries of `CoreState.faults`. They never stop the machine. -/
inductive FaultCode where
  | busTimeout | transactionFailed | unknownInterrupt
  deriving DecidableEq, Repr

/-- One event of the trace (10 R43). -/
inductive Event where
  | rd (r : Reg) (v : Word)
  | wr (r : Reg) (v : Word)
  | xact (a d : Byte)
  | delay
  | entry
  | ret
  | fault (c : FaultCode) (info : Word)
  deriving DecidableEq, Repr

/-- The interrupt sources of 60 R205. -/
inductive Source where
  | timer | gpio | extra
  deriving DecidableEq, Repr

/-- The execution contexts: `Main` and `Handler` of 10 R28, and the boot code that runs before either (70 R232). -/
inductive Ctx where
  | boot | main | handler
  deriving DecidableEq, Repr

/-- An opaque token: the saved pc and status have no stated width or format (10 R29, log 9). -/
abbrev Token := Nat

/-- `S.saved`: the interrupted context's program counter and status register, the latter as an opaque token and its
mask bit (10 R29). -/
structure Saved where
  pc : Token
  status : Token
  imask : Bool
  deriving DecidableEq, Repr

/-- One pending statement of the handler program (10 R28: the position is "a continuation"). `op` is an operation or
word still to run. The others are the places inside an operation's pseudocode that are no row of the table. Log 5. -/
inductive Item where
  /-- Run this instruction. -/
  | op (i : Instr)
  /-- A table word the host laid here that is no row: a step at it is refused (30 R93). -/
  | unlisted (nbits w : Nat)
  /-- `raise Fault(code, info)`, a step of its own (60 R211). -/
  | raise (c : FaultCode) (info : Word)
  /-- The test after COUNT_STEP inside TICK_STEP (42 R142). -/
  | stepTail
  /-- The loop head of COMPLETE_CHECK (41 R127). -/
  | checkLoop
  /-- The hold of DELAY_BYTE in Timer mode, until TIMER.RAWSTAT shows OVF (44 R174, 00 R11). -/
  | rawLoop
  /-- Mark after the second DATA_WRITE of `write(a, d)`: the hand-over point (41 R126). -/
  | xactMark (a d : Byte)
  /-- Mark: the end of a `write` call. -/
  | writeEnd
  /-- Mark: a caller inside a tick tests for Err here and runs FAIL_STEP (42 R142, R146). -/
  | catchFail
  /-- Mark: PWM_SETUP goes on after a failed write (44 R179). -/
  | catchBoot
  deriving DecidableEq, Repr

/-- Locals of the operations in progress (40 R100 `w`, 41 R121 `a` and `busyReads`). -/
structure Locals where
  srcWord : Word
  pollAddr : Byte
  busyReads : Nat
  deriving DecidableEq, Repr

/-- The core state `S` of 10 R20, with the control position of R28 and the interrupted context's tokens of R29. -/
structure CoreState where
  armed : Bool
  phase : Phase
  steps : Nat
  ctx : Ctx
  saved : Option Saved
  imask : Bool
  trace : List Event
  faults : List (FaultCode × Word)
  unknownIrqCount : Word
  cont : List Item
  pc : Token
  status : Token
  locals : Locals
  deriving DecidableEq, Repr

/-- A transaction in progress on the bus: the byte count it was started with, and the bytes sent so far (60 R219). -/
structure Txn where
  count : Nat
  sent : List Byte
  deriving DecidableEq, Repr

/-- `P.i2c` (10 R32). -/
structure I2c where
  stat : Word
  cnt : Word
  con : Word
  ie : Word
  data : Word
  oa : Word
  sa : Word
  txq : List Byte
  txn : Option Txn
  deriving DecidableEq, Repr

/-- `P.gpio` (10 R33). -/
structure Gpio where
  falldet : Word
  latch : Bool
  deriving DecidableEq, Repr

/-- `P.intc` (10 R34); the set `enabled` as one Bool per source that can be enabled. -/
structure Intc where
  enTimer : Bool
  enGpio : Bool
  gate : Bool
  active : Word
  extraPend : Bool
  deriving DecidableEq, Repr

/-- `P.timer` (10 R35). -/
structure Timer where
  reload : Word
  count : Word
  ovf : Bool
  ovfie : Bool
  rawOther : Word
  deriving DecidableEq, Repr

/-- A move of the interleaving (20 R64): the core's, or one of the environment agents' (60 R214, R218, R219, R224). -/
inductive Move where
  /-- The core takes its next step. -/
  | core
  /-- TIMER_TICK (60 R214). -/
  | timer
  /-- A falling edge on the button line (60 R218). -/
  | press
  /-- The Extra source sets `extraPend` (60 R205). -/
  | extra
  /-- The bus side sends the head byte of `txq` (60 R219). -/
  | busShift
  /-- STOP after the last byte; `nack` is the drawn acknowledgement (60 R219). -/
  | busFinish (nack : Bool)
  /-- Other activity on the bus sets or clears BB (60 R219). -/
  | busLine (bb : Bool)
  /-- The status bits the spec gives no meaning (93 I-5). -/
  | statBits (w : Word)
  /-- The bits of TIMER.RAWSTAT the spec gives no meaning (10 R35). -/
  | rawBits (w : Word)
  /-- The controller's coming choice among pending sources (60 R210). -/
  | prefer (src : Source)
  deriving DecidableEq, Repr

/-- The model's own view of the environment: the coming moves and the controller's coming choice. Logs 3 and 10. -/
structure Env where
  script : List Move
  pick : Source
  deriving DecidableEq, Repr

/-- The whole machine. -/
structure State where
  /-- The parameters, an argument of every step; no step writes them (10 R20, log 1). -/
  cfg : Params
  core : CoreState
  i2c : I2c
  gpio : Gpio
  intc : Intc
  timer : Timer
  env : Env
  /-- How many free values have been drawn (log 12). -/
  fresh : Nat
  deriving DecidableEq, Repr

/-- What stops the machine with a fault. The fault records of 60 R200 are not among these: they are data. -/
inductive Fault where
  /-- MemRead or MemWrite at an address no register has (10 R39; the spec gives the address space nothing else). Safe. -/
  | unmapped (addr : Nat)
  /-- The core is in boot or in a handler and its program has run out, which no rule produces (10 R28). Safe. -/
  | programRanOut
  deriving DecidableEq, Repr

/-- What the model gives no meaning to (60 R200 "Refusal"). -/
inductive Refusal where
  /-- An arm of `exec` without a meaning; none is left. Safe. -/
  | notModelled (mnemonic : String)
  /-- RegWrite of a word 30 R93 gives no meaning, or of a register the block never writes (10 R36). Safe. -/
  | unlistedWord (r : Reg) (v : Word)
  /-- RegRead of a write-only register (10 R36), or of TIMER.RAWSTAT where it does not exist (10 R35). Safe. -/
  | unreadable (r : Reg)
  /-- A step at a table word that is no row (30 R93). Safe. -/
  | undecodable (nbits w : Nat)
  /-- A misaligned or sub-word access (20 R62). Safe. -/
  | misaligned (addr size : Nat)
  /-- A transaction row with a data byte its row excludes (30 R93): the phase rows take `HIGH_VAL` and `LOW_VAL` only.
  WRITE itself checks neither operand (41 R120, log 18). Safe. -/
  | unlistedXact (a d : Byte)
  /-- EXC_RETURN with `S.saved = none` (60 R200 and 93 I-12 list it as a refusal; log 20). Safe. -/
  | returnWithoutContext
  /-- TRAP_ENTRY in a handler, or DISPATCH while one is in progress (60 R212, 40 R107). Safe. -/
  | nestedTrap
  /-- TRAP_ENTRY where 60 R207 does not allow a delivery (60 R224). Safe. -/
  | notDeliverable
  /-- `write` while another is mid-sequence (41 R128). Safe. -/
  | writeReentered
  /-- `write` from the main loop with interrupts enabled (70 R237). Safe. -/
  | writeFromMain
  /-- ENABLE_INTERRUPTS in a handler (70 R237, 44 R180). Safe. -/
  | unmaskInHandler
  /-- TICK_STEP, COUNT_STEP or ARM outside the precondition its rule states (42 R142, R145, 43 R161). Safe. -/
  | precondition
  /-- A row that does not exist in this configuration: DISPATCH_UNKNOWN in TwoWay (40 R105), COMPLETE_CHECK without
  `NACK_DETECT` (41 R127). Safe. -/
  | absentForm
  deriving DecidableEq, Repr

/-- The outcome type of every meaning. -/
abbrev Out := Host.Outcome State Fault Refusal

/-- The boot sequence of 70 R233 steps 3 and 4, as operations. -/
def bootProgram : List Item :=
  [.op .i2cInit, .op .pwmSetup, .op .gpioEdgeConfig, .op .timerConfig, .op .intcConfig, .op .enableInterrupts]

/-- The state after power-on reset (10 R46, 70 R230 to R232): the core state the spec gives, boot code about to run,
interrupts masked. Every value marked DESIGN CHOICE in INVENTORY.md is the model's (logs 3, 4, 6, 9, 10, 12). -/
def State.reset : State where
  cfg := Config.launch
  core :=
    { armed := false
      phase := .p1
      steps := 0
      ctx := .boot
      saved := none
      imask := true
      trace := []
      faults := []
      unknownIrqCount := 0#32
      cont := bootProgram
      pc := 0
      status := 0
      locals := { srcWord := 0#32, pollAddr := 0#8, busyReads := 0 } }
  i2c :=
    { stat := 0#32, cnt := 0#32, con := 0#32, ie := 0#32, data := 0#32, oa := 0#32, sa := 0#32, txq := [], txn := none }
  gpio := { falldet := 0#32, latch := false }
  intc := { enTimer := false, enGpio := false, gate := false, active := 0#32, extraPend := false }
  timer := { reload := 0#32, count := 0#32, ovf := false, ovfie := false, rawOther := 0#32 }
  env := { script := [], pick := .timer }
  fresh := 0

end Sys2Proof.Machine
end

