-- ==== Sys2Proof/Machine/Flags.lean ====
section
/-! DEFINITION. The status flags of 10_state.md R31 and what is computed from them: BB, the pending set and the
delivery condition of 60_exceptions.md R206 and R207, and the controller's choice of R210. -/

namespace Sys2Proof.Machine

/-- `v` with bit `i` set to `b`. -/
def setBit (v : Word) (i : Nat) (b : Bool) : Word :=
  if b then v ||| Word.oneHot i else v &&& ~~~(Word.oneHot i)

/-- The bus-busy flag BB (30 R82). -/
def State.busy (s : State) : Bool := s.i2c.stat.bit Config.bbBit

/-- `pending(x)` of 60 R206. -/
def State.pending (s : State) : Source → Bool
  | .timer => s.timer.ovf && s.timer.ovfie && s.intc.enTimer
  | .gpio => s.gpio.latch && s.intc.enGpio
  | .extra => s.cfg.extraSource.isSome && s.intc.extraPend

/-- Some source is pending. -/
def State.anyPending (s : State) : Bool := s.pending .timer || s.pending .gpio || s.pending .extra

/-- The delivery condition of 60 R207. -/
def State.deliverable (s : State) : Bool :=
  s.intc.gate && !s.core.imask && s.core.ctx == .main && s.anyPending

/-- `choose s ∈ pending` (60 R210): the controller's pick if it is pending, else the first pending source. -/
def State.chosen (s : State) : Source :=
  if s.pending s.env.pick then s.env.pick
  else if s.pending .timer then .timer
  else if s.pending .gpio then .gpio
  else .extra

/-- `word(s)` of 60 R205. -/
def State.sourceWord (s : State) : Source → Word
  | .timer => s.cfg.srcWordTimer
  | .gpio => s.cfg.srcWordGpio
  | .extra => s.cfg.extraSource.getD 0#32

/-- `busyReads ≥ B` of 41 R121; with no budget, never. -/
def budgetSpent (c : Params) (n : Nat) : Bool :=
  match c.pollBudget with
  | none => false
  | some b => decide (b ≤ n)

/-- The code number of a fault record (60 R200). -/
def FaultCode.number : FaultCode → Nat
  | .busTimeout => 1
  | .transactionFailed => 2
  | .unknownInterrupt => 3

/-- Whether the raising operation returns Err (41 R121, R127) or goes on (40 R105). -/
def FaultCode.returnsErr : FaultCode → Bool
  | .busTimeout => true
  | .transactionFailed => true
  | .unknownInterrupt => false

end Sys2Proof.Machine
end

