-- ==== Sys2Proof/Machine/Operands.lean ====
section
/-! DEFINITION. Operand assembly (30_encoding.md section 2) and the values read from a register. -/

namespace Sys2Proof.Machine

/-- The reload word `(0xFFFFFFFF − n + 1) mod 2^32` of 30 R88. -/
def reloadFor (n : Word) : Word := 0xFFFFFFFF#32 - n + 1#32

/-- `(n mod 4) + 1` on phase labels (42 R144). -/
def nextPhase : Phase → Phase
  | .p1 => .p2
  | .p2 => .p3
  | .p3 => .p4
  | .p4 => .p1

/-- The word of TIMER.RAWSTAT: bit `OVF_BIT` reads OVF, the other bits are the environment's (10 R35). -/
def State.rawWord (s : State) : Word :=
  if s.timer.ovf then s.timer.rawOther ||| Word.oneHot s.cfg.ovfBit
  else s.timer.rawOther &&& ~~~(Word.oneHot s.cfg.ovfBit)

/-- The value a RegRead gives; `none` for a register the block does not read (10 R36). -/
def State.readable (s : State) : Reg → Option Word
  | .i2cStat => some s.i2c.stat
  | .intcActive => some s.intc.active
  | .timerRawstat => if s.cfg.byteDelayMode = .timer then some s.rawWord else none
  | _ => none

/-- A fault's information: the register-address byte, zero-extended (60 R200). -/
def addrInfo (a : Byte) : Word := BitVec.setWidth 32 a

end Sys2Proof.Machine
end

