-- ==== Sys2Proof/Machine/Ops.lean ====
section
/-! DEFINITION. The named operations every meaning is written in: the primitives of 00_scope.md R11 (emit, RegRead,
RegWrite, MemRead, MemWrite, raise Fault, call, return Err), the device effect of each register write (20_memory.md
R66), the status poll, trap entry and exception return. -/

namespace Sys2Proof.Machine

/-- `emit(e)` of 00 R11. -/
def emit (e : Event) (s : State) : State := { s with core.trace := s.core.trace ++ [e] }

/-- The state at another place of the handler program. -/
def setCont (k : List Item) (s : State) : State := { s with core.cont := k }

/-- `call`: the statements `is` run next, and then what was to run (00 R11). -/
def call (is : List Item) (s : State) : State := { s with core.cont := is ++ s.core.cont }

/-- Registers the block writes (10 R36). -/
def writable : Reg → Bool
  | .i2cStat => false
  | .intcActive => false
  | .timerRawstat => false
  | _ => true

/-- 30 R93: the words a register takes are those of its rows. -/
def accepts (c : Params) (r : Reg) (v : Word) : Bool := writable r && (regRow c r v).isSome

/-- A CON write: the transfer word starts a transaction of `cnt` bytes and sets BB in the same step (41 R123, 70 R239);
the init word starts nothing (44 R175). -/
def writeCon (v : Word) (s : State) : State :=
  if v = Config.conXferWord then
    { s with
      i2c.con := v
      i2c.txn := some { count := s.i2c.cnt.toNat, sent := [] }
      i2c.stat := setBit s.i2c.stat Config.bbBit true }
  else { s with i2c.con := v }

/-- The device effect of a register write (20 R66, 60 R216, 44 R170 to R178, 41 R122 to R125). -/
def deviceEffect (r : Reg) (v : Word) (s : State) : State :=
  match r with
  | .i2cCnt => { s with i2c.cnt := v }
  | .i2cCon => writeCon v s
  | .i2cIe => { s with i2c.ie := v }
  | .i2cData => { s with i2c.data := v, i2c.txq := s.i2c.txq ++ [lowByte v] }
  | .i2cOa => { s with i2c.oa := v }
  | .i2cSa => { s with i2c.sa := v }
  | .gpioFalldet => { s with gpio.falldet := v }
  | .gpioStatclr => { s with gpio.latch := false }
  | .intcReset => { s with intc.enTimer := false, intc.enGpio := false, intc.gate := true }
  | .intcMasken =>
    { s with
      intc.enTimer := s.intc.enTimer || v == s.cfg.maskenTimerValue
      intc.enGpio := s.intc.enGpio || v == s.cfg.maskenGpioValue }
  | .intcNewirq => { s with intc.gate := true }
  | .timerReset =>
    { s with
      timer.count := Config.freeWord s.fresh
      timer.reload := Config.freeWord (s.fresh + 1)
      timer.ovf := false
      timer.ovfie := false
      fresh := s.fresh + 2 }
  | .timerStatclr => { s with timer.ovf := false }
  | .timerOvfie => { s with timer.ovfie := true }
  | .timerReload => { s with timer.reload := v, timer.count := v }
  | .i2cStat => s
  | .intcActive => s
  | .timerRawstat => s

/-- A register write with its trace event (00 R11, 10 R43). -/
def written (r : Reg) (v : Word) (s : State) : State := deviceEffect r v (emit (.wr r v) s)

/-- `RegWrite(r, v)`: one core step; a word no rule produces is refused (30 R93). -/
def regWrite (r : Reg) (v : Word) (s : State) : Out :=
  if accepts s.cfg r v then .next (written r v s) else .refused (.unlistedWord r v)

/-- `RegRead(r)`: the value and its trace event, and nothing else (20 R65); `k` is what the reader does with them. -/
def regRead (r : Reg) (k : Word → State → Out) (s : State) : Out :=
  match s.readable r with
  | some v => k v (emit (.rd r v) s)
  | none => .refused (.unreadable r)

/-- The label at an address (10 R39). TIMER.RAWSTAT exists only in the Timer byte-delay mode. -/
def regAt (c : Params) (addr : Nat) : Option Reg :=
  (Reg.labels c.byteDelayMode).find? (fun r => c.addrs.addr r == addr)

/-- `MemWrite(addr, size, v)` (00 R11, 20 R62): whole aligned words only. -/
def memWrite (addr size : Nat) (v : Word) (s : State) : Out :=
  if size ≠ 4 ∨ addr % 4 ≠ 0 then .refused (.misaligned addr size)
  else
    match regAt s.cfg addr with
    | some r => regWrite r v s
    | none => .fault (.unmapped addr)

/-- `MemRead(addr, size)` (00 R11, 20 R62); `k` is what the reader does with the value. -/
def memRead (addr size : Nat) (k : Word → State → Out) (s : State) : Out :=
  if size ≠ 4 ∨ addr % 4 ≠ 0 then .refused (.misaligned addr size)
  else
    match regAt s.cfg addr with
    | some r => regRead r k s
    | none => .fault (.unmapped addr)

/-- Up to the nearest test for Err: FAIL_STEP in a tick (42 R142, R146), the next write in PWM_SETUP (44 R179). -/
def toCatch : List Item → Option (List Item)
  | [] => none
  | .catchFail :: k => some (.op .failStep :: k)
  | .catchBoot :: k => some k
  | _ :: k => toCatch k

/-- Past the end of the `write` in progress; nothing is dropped if none is. -/
def pastWrite : List Item → Option (List Item)
  | [] => none
  | .writeEnd :: k => some k
  | _ :: k => pastWrite k

/-- `return Err`: the rest of the failing calls is dropped up to the caller that tests for Err. A `write` that nobody
tests just returns (log 21). -/
def afterErr (k : List Item) : List Item := (toCatch k).getD ((pastWrite k).getD k)

/-- `raise Fault(code, info)` (00 R11, 60 R200), and then what the raising rule says. -/
def raiseFault (f : FaultCode) (info : Word) (s : State) : State :=
  let t : State := { s with core.faults := s.core.faults ++ [(f, info)] }
  let u := emit (.fault f info) t
  if f.returnsErr then setCont (afterErr u.core.cont) u else u

/-- One read of I2C.STAT by the poll; the word read decides what comes next (41 R121, 30 R82). -/
def pollRead (s : State) : Out :=
  regRead .i2cStat (fun v t => .next (call [.op (statRow v)] t)) s

/-- A busy read was counted: out of budget, or read again (41 R121). -/
def pollAgain (s : State) : Out :=
  let t : State := { s with core.locals.busyReads := s.core.locals.busyReads + 1 }
  if budgetSpent s.cfg t.core.locals.busyReads then
    .next (call [.raise .busTimeout (addrInfo s.core.locals.pollAddr)] t)
  else pollRead t

/-- Start of a poll: its operand and its count of busy reads (41 R121). -/
def startPoll (a : Byte) (s : State) : State :=
  { s with core.locals.pollAddr := a, core.locals.busyReads := 0 }

/-- The test of COMPLETE_CHECK on the word read (41 R127). -/
def checkTest (v : Word) (s : State) : Out :=
  if v.bit s.cfg.nackBit then
    .next (call [.raise .transactionFailed (addrInfo s.core.locals.pollAddr)] s)
  else if v.bit s.cfg.doneBit then .next s
  else
    let t : State := { s with core.locals.busyReads := s.core.locals.busyReads + 1 }
    if budgetSpent s.cfg t.core.locals.busyReads then
      .next (call [.raise .busTimeout (addrInfo s.core.locals.pollAddr)] t)
    else .next (call [.checkLoop] t)

/-- One read of COMPLETE_CHECK's loop (41 R127); the bits it tests exist only with `NACK_DETECT`. -/
def checkRead (s : State) : Out :=
  if s.cfg.nackDetect then regRead .i2cStat checkTest s else .refused .absentForm

/-- The hold of DELAY_BYTE in Timer mode (44 R174): while OVF is clear the core has no enabled step, so its move has no
effect (00 R11). Once OVF is set, the read that ends the hold, and the row of the word read (log 25). -/
def rawRead (s : State) : Out :=
  if s.cfg.byteDelayMode = .timer ∧ s.timer.ovf = false then .next (call [.rawLoop] s)
  else regRead .timerRawstat (fun v t => .next (call [.op (.rawOvf v)] t)) s

/-- One byte to the data register; the second byte of a `write` also emits its XACT (41 R125, R126). -/
def handOver (s : State) : State :=
  match s.core.cont with
  | .xactMark a d :: k => emit (.xact a d) (setCont k s)
  | _ => s

/-- DATA_WRITE (41 R125, R126). -/
def putByte (b : Byte) (s : State) : Out :=
  match regWrite .i2cData (dataWord b) s with
  | .next t => .next (handOver t)
  | o => o

/-- A `write` is mid-sequence (41 R128): its end is still ahead. -/
def writeInProgress (s : State) : Bool := s.core.cont.any (fun x => x == .writeEnd)

/-- The statements of `write(a, d)` (41 R120). -/
def writeBody (c : Params) (a d : Byte) : List Item :=
  [.op (.pollBusy a), .op .setCount, .op .conXfer, .op .xrdyEnable, .op (.dataWrite a), .op .xrdyEnable,
    .op (.dataWrite d), .xactMark a d]
  ++ (if c.nackDetect then [.op (.completeCheck a)] else [])
  ++ [.writeEnd]

/-- The transaction row `i` run by itself (log 22): its `write`, if the row admits its data byte (30 R93). -/
def sendRow (i : Instr) (a d : Byte) (s : State) : Out :=
  if i.WellFormed s.cfg then .next (call [.op (.write a d)] s) else .refused (.unlistedXact a d)

/-- `write(a, d)` (41 R120), whose operands are never checked: a pair outside the XACT rows sets the refusal mark when it
is handed over (log 18, `State.refusalMark`). Not re-entrant (41 R128), and not from Main while interrupts are enabled
(70 R237). -/
def startWrite (a d : Byte) (s : State) : Out :=
  if writeInProgress s then .refused .writeReentered
  else if s.core.ctx = .main ∧ s.core.imask = false then .refused .writeFromMain
  else .next (call (writeBody s.cfg a d) s)

/-- Taking the interrupt: the one shared operation of 60 R209, one atomic step. -/
def takeTrap (s : State) : State :=
  let src := s.chosen
  let t : State :=
    { s with
      intc.active := s.sourceWord src
      intc.gate := false
      core.saved := some { pc := s.core.pc, status := s.core.status, imask := false }
      core.imask := true
      core.ctx := .handler }
  call [.op .dispatch] (emit .entry t)

/-- TRAP_ENTRY where 60 R207 allows it; a nested one and one that is not deliverable are refused (60 R212, R224). -/
def trap (s : State) : Out :=
  if s.core.ctx = .handler then .refused .nestedTrap
  else if s.deliverable then .next (takeTrap s)
  else .refused .notDeliverable

/-- The exception return (40 R106). With nothing saved it is refused (60 R200, 93 I-12; log 20). -/
def trapReturn (s : State) : Out :=
  match s.core.saved with
  | none => .refused .returnWithoutContext
  | some c =>
    .next (emit .ret
      { s with
        core.pc := c.pc
        core.status := c.status
        core.imask := c.imask
        core.saved := none
        core.ctx := .main })

end Sys2Proof.Machine
end

