-- ==== Sys2Proof/Machine/Agents.lean ====
section
/-! DEFINITION. The environment agents (spec/60_exceptions.md R214 to R219, R205, R224). A move its agent may not make
in a state has no effect there (log 27). None of them touches the core state `S`. -/

namespace Sys2Proof.Machine

/-- TIMER_TICK (60 R214), once TIMER_CONFIG has run (R224, log 13). -/
def timerTick (s : State) : State :=
  if s.timer.ovfie then
    if s.timer.count = 0xFFFFFFFF#32 then
      { s with
        timer.ovf := true
        timer.count := if s.cfg.timerAutoreload then s.timer.reload else 0#32 }
    else { s with timer.count := s.timer.count + 1#32 }
  else s

/-- A falling edge on the button line (60 R218): it sets LATCH once edge detection is configured for the line. -/
def buttonEdge (s : State) : State :=
  if s.gpio.falldet.bit s.cfg.buttonLine then { s with gpio.latch := true } else s

/-- The Extra source becomes pending, where there is one (60 R205). -/
def raiseExtra (s : State) : State :=
  if s.cfg.extraSource.isSome then { s with intc.extraPend := true } else s

/-- shift of 60 R219: the head of `txq` goes to the slave, in order. -/
def busShift (s : State) : State :=
  match s.i2c.txn, s.i2c.txq with
  | some t, b :: q =>
    if t.sent.length < t.count then
      { s with i2c.txq := q, i2c.txn := some { t with sent := t.sent ++ [b] } }
    else s
  | _, _ => s

/-- finish of 60 R219: STOP once `count` bytes are sent; with `NACK_DETECT` the status bits are set as drawn. -/
def busFinish (nack : Bool) (s : State) : State :=
  match s.i2c.txn with
  | some t =>
    if t.sent.length < t.count then s
    else if s.cfg.nackDetect then
      { s with
        i2c.txn := none
        i2c.stat := setBit (setBit s.i2c.stat s.cfg.doneBit true) s.cfg.nackBit nack }
    else { s with i2c.txn := none }
  | none => s

/-- busy of 60 R219: outside a transaction BB may be set or cleared. -/
def busLine (bb : Bool) (s : State) : State :=
  if s.i2c.txn = none then { s with i2c.stat := setBit s.i2c.stat Config.bbBit bb } else s

/-- The status bits without meaning take any value (93 I-5); BB does not move, and with `NACK_DETECT` the DONE and NACK
bits may only be cleared here (log 14). -/
def statBits (w : Word) (s : State) : State :=
  let v := s.i2c.stat
  let w1 := if s.cfg.nackDetect then setBit w s.cfg.doneBit (v.bit s.cfg.doneBit && w.bit s.cfg.doneBit) else w
  let w2 := if s.cfg.nackDetect then setBit w1 s.cfg.nackBit (v.bit s.cfg.nackBit && w.bit s.cfg.nackBit) else w1
  { s with i2c.stat := setBit w2 Config.bbBit (v.bit Config.bbBit) }

/-- The bits of TIMER.RAWSTAT without meaning take any value (10 R35). -/
def rawBits (w : Word) (s : State) : State := { s with timer.rawOther := w }

/-- The controller's coming choice (60 R210). -/
def prefer (src : Source) (s : State) : State := { s with env.pick := src }

/-- An environment agent's move; `core` is not one of them. -/
def agentMove (m : Move) (s : State) : State :=
  match m with
  | .core => s
  | .timer => timerTick s
  | .press => buttonEdge s
  | .extra => raiseExtra s
  | .busShift => busShift s
  | .busFinish nack => busFinish nack s
  | .busLine bb => busLine bb s
  | .statBits w => statBits w s
  | .rawBits w => rawBits w s
  | .prefer src => prefer src s

end Sys2Proof.Machine
end

