-- ==== Sys2Proof/Machine/Button.lean ====
section
/-! DEFINITION. The button input handler (spec/43_button_handler.md). -/

namespace Sys2Proof.Machine

/-- BUTTON (43 R160). -/
def execButton (s : State) : Out :=
  if s.core.armed = false then .next (call [.op .arm] s) else .next (call [.op .buttonIgnored] s)

/-- ARM (43 R161), under its stated precondition. -/
def execArm (s : State) : Out :=
  if s.core.armed = false then
    .next (call [.op (.timerProgram s.cfg.stepTicks .stepAdvance)]
      { s with core.steps := 0, core.phase := .p1, core.armed := true })
  else .refused .precondition

/-- BUTTON_IGNORED (43 R162): nothing. -/
def execButtonIgnored (s : State) : Out := .next s

end Sys2Proof.Machine
end

