-- ==== Sys2Proof/Machine/Dispatcher.lean ====
section
/-! DEFINITION. The interrupt dispatcher (spec/40_dispatcher.md) and trap entry (60_exceptions.md R209). -/

namespace Sys2Proof.Machine

/-- DISPATCH_TIMER (40 R104): clear OVF, then TICK. -/
def execDispatchTimer (_w : Word) (s : State) : Out := .next (call [.op .timerStatusClear, .op .tick] s)

/-- DISPATCH_GPIO (40 R103): clear LATCH, then BUTTON. -/
def execDispatchGpio (_w : Word) (s : State) : Out := .next (call [.op .gpioStatusClear, .op .button] s)

/-- DISPATCH_UNKNOWN (40 R105): count, then raise UnknownInterrupt; no status is cleared. Flag only. -/
def execDispatchUnknown (w : Word) (s : State) : Out :=
  match s.cfg.unknownIrqPolicy with
  | .flag =>
    .next (call [.raise .unknownInterrupt w] { s with core.unknownIrqCount := s.core.unknownIrqCount + 1#32 })
  | .twoWay => .refused .absentForm

/-- DISPATCH is in progress: its EXC_RETURN is still ahead. -/
def dispatchInProgress (s : State) : Bool := s.core.cont.any (fun x => x == .op .excReturn)

/-- DISPATCH (40 R100): read the source, route it, acknowledge, return; not re-entrant (40 R107). -/
def execDispatch (s : State) : Out :=
  if dispatchInProgress s then .refused .nestedTrap
  else .next (call [.op .readSrc, .op .decodeSrc, .op .newirqAck, .op .excReturn] s)

/-- READ_SRC (40 R101): the word latched at delivery, into the dispatcher's local. -/
def execReadSrc (s : State) : Out :=
  regRead .intcActive (fun w t => .next { t with core.locals.srcWord := w }) s

/-- DECODE_SRC (40 R102): no event and no effect but the choice of branch. -/
def execDecodeSrc (s : State) : Out := .next (call [.op (srcRow s.cfg s.core.locals.srcWord)] s)

/-- EXC_RETURN (40 R106). -/
def execExcReturn (s : State) : Out := trapReturn s

/-- TRAP_ENTRY (60 R209). -/
def execTrapEntry (s : State) : Out := trap s

end Sys2Proof.Machine
end

