-- ==== Sys2Proof/Machine/Master.lean ====
section
/-! DEFINITION. The I2C master write primitive (spec/41_i2c_master.md) and the STAT, CON, CNT, IE and DATA rows. -/

namespace Sys2Proof.Machine

/-- BUSY (41 R121): the poll holds. The read is counted, and the budget decides between BusTimeout and another read. -/
def execBusy (_v : Word) (s : State) : Out := pollAgain s

/-- FREE (41 R121): the poll ends. -/
def execFree (_v : Word) (s : State) : Out := .next s

/-- CON_XFER (41 R123). -/
def execConXfer (s : State) : Out := regWrite .i2cCon Config.conXferWord s

/-- CON_INIT (44 R175). -/
def execConInit (s : State) : Out := regWrite .i2cCon Config.conInitWord s

/-- CNT_2 (41 R122). -/
def execCnt2 (s : State) : Out := regWrite .i2cCnt Config.cnt2Word s

/-- IE_XRDY (41 R124). -/
def execIeXrdy (s : State) : Out := regWrite .i2cIe Config.ieXrdyWord s

/-- DATA_BYTE (41 R125). -/
def execDataByte (b : Byte) (s : State) : Out := putByte b s

/-- WRITE (41 R120). -/
def execWrite (a d : Byte) (s : State) : Out := startWrite a d s

/-- POLL_BUSY (41 R121): its first read. -/
def execPollBusy (a : Byte) (s : State) : Out := pollRead (startPoll a s)

/-- SET_COUNT (41 R122). -/
def execSetCount (s : State) : Out := regWrite .i2cCnt Config.cnt2Word s

/-- XRDY_ENABLE (41 R124). -/
def execXrdyEnable (s : State) : Out := regWrite .i2cIe Config.ieXrdyWord s

/-- DATA_WRITE (41 R125, R126). -/
def execDataWrite (b : Byte) (s : State) : Out := putByte b s

/-- COMPLETE_CHECK (41 R127): its first read. -/
def execCompleteCheck (a : Byte) (s : State) : Out := checkRead (startPoll a s)

end Sys2Proof.Machine
end

