-- ==== Sys2Proof/Machine/Peripheral.lean ====
section
/-! DEFINITION. The peripheral operations, run-time and boot (spec/44_peripheral_ops.md), and the register-word rows
they write. -/

namespace Sys2Proof.Machine

/-- RELOAD_WORD (44 R170). -/
def execReloadWord (v : Word) (s : State) : Out := regWrite .timerReload v s

/-- GPIO_CLR (44 R172). -/
def execGpioClr (s : State) : Out := regWrite .gpioStatclr (buttonWord s.cfg) s

/-- TIMER_CLR (44 R171). -/
def execTimerClr (s : State) : Out := regWrite .timerStatclr s.cfg.timerClrValue s

/-- NEWIRQ_ACK (44 R173). -/
def execNewirqAck (s : State) : Out := regWrite .intcNewirq s.cfg.newirqAckValue s

/-- I2C_OA (44 R175). -/
def execI2cOa (s : State) : Out := regWrite .i2cOa s.cfg.ownAddr s

/-- I2C_SA (44 R175). -/
def execI2cSa (s : State) : Out := regWrite .i2cSa s.cfg.slaveAddr s

/-- GPIO_FALLDET (44 R176). -/
def execGpioFalldet (s : State) : Out := regWrite .gpioFalldet (buttonWord s.cfg) s

/-- INTC_RESET (44 R177, log 11). -/
def execIntcReset (s : State) : Out := regWrite .intcReset s.cfg.intcResetValue s

/-- INTC_MASKEN (44 R177): one of the two mask-enable words. -/
def execIntcMasken (v : Word) (s : State) : Out := regWrite .intcMasken v s

/-- TIMER_RESET (44 R178, 60 R216). -/
def execTimerReset (s : State) : Out := regWrite .timerReset s.cfg.timerResetValue s

/-- TIMER_OVFIE (44 R178, 60 R216). -/
def execTimerOvfie (s : State) : Out := regWrite .timerOvfie s.cfg.ovfieValue s

/-- RAW_OVF (44 R174): the hold of DELAY_BYTE ends. DESIGN CHOICE (log 36), where the row excludes the operand or does not
exist and the spec gives it no effect: on a word whose bit `OVF_BIT` is clear the hold goes on, and outside the Timer
byte-delay mode the row run by itself tests its word in the same way, so that a word with the bit set is a no-op. -/
def execRawOvf (v : Word) (s : State) : Out :=
  if v.bit s.cfg.ovfBit then .next s else .next (call [.rawLoop] s)

/-- TIMER_PROGRAM (44 R170); `purpose` is written nowhere. -/
def execTimerProgram (n : Word) (_purpose : Purpose) (s : State) : Out := regWrite .timerReload (reloadFor n) s

/-- TIMER_STATUS_CLEAR (44 R171). -/
def execTimerStatusClear (s : State) : Out := regWrite .timerStatclr s.cfg.timerClrValue s

/-- GPIO_STATUS_CLEAR (44 R172). -/
def execGpioStatusClear (s : State) : Out := regWrite .gpioStatclr (buttonWord s.cfg) s

/-- DELAY_BYTE (44 R174): the event, and in Timer mode the ByteSpacing program, the hold and the clear. -/
def execDelayByte (s : State) : Out :=
  let t := emit .delay s
  match s.cfg.byteDelayMode with
  | .abstract => .next t
  | .timer =>
    .next (call [.op (.timerProgram s.cfg.byteTicks .byteSpacing), .rawLoop, .op .timerStatusClear] t)

/-- I2C_INIT (44 R175). -/
def execI2cInit (s : State) : Out := .next (call [.op .i2cOa, .op .i2cSa, .op .conInit] s)

/-- GPIO_EDGE_CONFIG (44 R176). -/
def execGpioEdgeConfig (s : State) : Out := regWrite .gpioFalldet (buttonWord s.cfg) s

/-- INTC_CONFIG (44 R177). -/
def execIntcConfig (s : State) : Out :=
  .next (call [.op .intcReset, .op (.intcMasken s.cfg.maskenTimerValue), .op (.intcMasken s.cfg.maskenGpioValue)] s)

/-- TIMER_CONFIG (44 R178). -/
def execTimerConfig (s : State) : Out := .next (call [.op .timerReset, .op .timerOvfie] s)

/-- The statements of PWM_SETUP (44 R179): a failed write is recorded and boot goes on. -/
def setupPairs : List (Byte × Byte) → List Item
  | [] => []
  | p :: ps => .op (.write p.1 p.2) :: .catchBoot :: setupPairs ps

/-- PWM_SETUP (44 R179). -/
def execPwmSetup (s : State) : Out := .next (call (setupPairs s.cfg.pwmSetupSeq) s)

/-- ENABLE_INTERRUPTS (44 R180): unmask and enter the main loop; not inside a handler (70 R237). -/
def execEnableInterrupts (s : State) : Out :=
  if s.core.ctx = .handler then .refused .unmaskInHandler
  else .next { s with core.imask := false, core.ctx := .main }

/-- DISABLE_INTERRUPTS (44 R181). -/
def execDisableInterrupts (s : State) : Out := .next { s with core.imask := true }

end Sys2Proof.Machine
end

