-- ==== Sys2Proof/Machine/Sequencer.lean ====
section
/-! DEFINITION. The step sequencer (spec/42_step_sequencer.md). -/

namespace Sys2Proof.Machine

/-- TICK (42 R140). -/
def execTick (s : State) : Out :=
  if s.core.armed = false then .next (call [.op .tickIdle] s)
  else if s.core.steps = Config.stepLimit then .next (call [.op .tickBrake] s)
  else .next (call [.op .tickStep] s)

/-- TICK_IDLE (42 R141): nothing. -/
def execTickIdle (s : State) : Out := .next s

/-- TICK_STEP (42 R142), under its stated precondition. -/
def execTickStep (s : State) : Out :=
  if s.core.armed = true ∧ s.core.steps < Config.stepLimit then
    .next (call [.op (.emitPhase s.core.phase), .op .advancePhase, .op .countStep, .stepTail, .catchFail] s)
  else .refused .precondition

/-- What TICK_STEP does after COUNT_STEP (42 R142, R146): brake in the same tick, or restart the timer. -/
def afterCount (s : State) : State :=
  if s.cfg.brakeTick = .sameTick ∧ s.core.steps = Config.stepLimit then call [.op .tickBrake] s
  else call [.op (.timerProgram s.cfg.stepTicks .stepAdvance)] s

/-- The statements that send a list of pairs with a delay after each (42 R143). -/
def emitPairs : List (Byte × Byte) → List Item
  | [] => []
  | p :: ps => .op (.write p.1 p.2) :: .op .delayByte :: emitPairs ps

/-- EMIT_PHASE (42 R143): the four writes of the phase in table order, each followed by a delay. -/
def execEmitPhase (p : Phase) (s : State) : Out :=
  .next (call (emitPairs (s.cfg.phaseTable.entry p).pairs) s)

/-- ADVANCE_PHASE (42 R144). -/
def execAdvancePhase (s : State) : Out := .next { s with core.phase := nextPhase s.core.phase }

/-- COUNT_STEP (42 R145), under its stated precondition. -/
def execCountStep (s : State) : Out :=
  if s.core.steps < Config.stepLimit then .next { s with core.steps := s.core.steps + 1 }
  else .refused .precondition

/-- TICK_BRAKE (42 R146). -/
def execTickBrake (s : State) : Out := .next (call [.op .brake, .op .resetToIdle, .catchFail] s)

/-- BRAKE (42 R147): the two transactions, each with a delay only under `BRAKE_DELAY`. -/
def execBrake (s : State) : Out :=
  let delay : List Item := if s.cfg.brakeDelay then [.op .delayByte] else []
  .next (call ([.op (.write Config.brakeReg Config.brakeOnData)] ++ delay
    ++ [.op (.write Config.brakeReg Config.brakeOffData)] ++ delay) s)

/-- RESET_TO_IDLE (42 R148). -/
def execResetToIdle (s : State) : Out :=
  .next { s with core.steps := 0, core.phase := .p1, core.armed := false }

/-- FAIL_STEP (42 R149). -/
def execFailStep (s : State) : Out := .next (call [.op .resetToIdle] s)

end Sys2Proof.Machine
end

