-- ==== Sys2Proof/Machine/Transactions.lean ====
section
/-! DEFINITION. The XACT rows (30_encoding.md R87, R91): each is the call `write(A, D)` that hands the transaction over
(log 22). A data byte its row excludes makes it no row, and is refused (R93). The phase rows are sent by EMIT_PHASE, the
brake rows by BRAKE, the setup rows by PWM_SETUP. -/

namespace Sys2Proof.Machine

/-- PHASE_CH_17 (42 R143). -/
def execPhaseCh17 (d : Byte) (s : State) : Out := sendRow (.phaseCh17 d) 0x17#8 d s

/-- PHASE_CH_13 (42 R143). -/
def execPhaseCh13 (d : Byte) (s : State) : Out := sendRow (.phaseCh13 d) 0x13#8 d s

/-- PHASE_CH_1B (42 R143). -/
def execPhaseCh1b (d : Byte) (s : State) : Out := sendRow (.phaseCh1b d) 0x1B#8 d s

/-- PHASE_CH_1F (42 R143). -/
def execPhaseCh1f (d : Byte) (s : State) : Out := sendRow (.phaseCh1f d) 0x1F#8 d s

/-- BRAKE_ALL_OFF (42 R147). -/
def execBrakeAllOff (s : State) : Out := sendRow .brakeAllOff Config.brakeReg Config.brakeOnData s

/-- BRAKE_RELEASE (42 R147). -/
def execBrakeRelease (s : State) : Out := sendRow .brakeRelease Config.brakeReg Config.brakeOffData s

/-- SETUP_MODE1 (44 R179). -/
def execSetupMode1 (d : Byte) (s : State) : Out := sendRow (.setupMode1 d) 0x00#8 d s

/-- SETUP_PRESCALE (44 R179). -/
def execSetupPrescale (d : Byte) (s : State) : Out := sendRow (.setupPrescale d) 0xFE#8 d s

/-- SETUP_MODE2 (44 R179). -/
def execSetupMode2 (d : Byte) (s : State) : Out := sendRow (.setupMode2 d) 0x01#8 d s

/-- SETUP_CH_0F (44 R179). -/
def execSetupCh0f (d : Byte) (s : State) : Out := sendRow (.setupCh0f d) 0x0F#8 d s

/-- SETUP_CH_23 (44 R179). -/
def execSetupCh23 (d : Byte) (s : State) : Out := sendRow (.setupCh23 d) 0x23#8 d s

end Sys2Proof.Machine
end

