-- ==== Sys2Proof/Machine/Dispatch.lean ====
section
/-! DEFINITION. One arm per instruction: the call of its meaning. -/

namespace Sys2Proof.Machine

def exec (i : Instr) (s : State) : Host.Outcome State Fault Refusal :=
  match i with
  | .dispatchTimer w => Sys2Proof.Machine.execDispatchTimer w s
  | .dispatchGpio w => Sys2Proof.Machine.execDispatchGpio w s
  | .dispatchUnknown w => Sys2Proof.Machine.execDispatchUnknown w s
  | .busy v => Sys2Proof.Machine.execBusy v s
  | .free v => Sys2Proof.Machine.execFree v s
  | .conXfer => Sys2Proof.Machine.execConXfer s
  | .conInit => Sys2Proof.Machine.execConInit s
  | .cnt2 => Sys2Proof.Machine.execCnt2 s
  | .ieXrdy => Sys2Proof.Machine.execIeXrdy s
  | .dataByte b => Sys2Proof.Machine.execDataByte b s
  | .reloadWord v => Sys2Proof.Machine.execReloadWord v s
  | .gpioClr => Sys2Proof.Machine.execGpioClr s
  | .timerClr => Sys2Proof.Machine.execTimerClr s
  | .newirqAck => Sys2Proof.Machine.execNewirqAck s
  | .i2cOa => Sys2Proof.Machine.execI2cOa s
  | .i2cSa => Sys2Proof.Machine.execI2cSa s
  | .gpioFalldet => Sys2Proof.Machine.execGpioFalldet s
  | .intcReset => Sys2Proof.Machine.execIntcReset s
  | .intcMasken v => Sys2Proof.Machine.execIntcMasken v s
  | .timerReset => Sys2Proof.Machine.execTimerReset s
  | .timerOvfie => Sys2Proof.Machine.execTimerOvfie s
  | .rawOvf v => Sys2Proof.Machine.execRawOvf v s
  | .phaseCh17 d => Sys2Proof.Machine.execPhaseCh17 d s
  | .phaseCh13 d => Sys2Proof.Machine.execPhaseCh13 d s
  | .phaseCh1b d => Sys2Proof.Machine.execPhaseCh1b d s
  | .phaseCh1f d => Sys2Proof.Machine.execPhaseCh1f d s
  | .brakeAllOff => Sys2Proof.Machine.execBrakeAllOff s
  | .brakeRelease => Sys2Proof.Machine.execBrakeRelease s
  | .setupMode1 d => Sys2Proof.Machine.execSetupMode1 d s
  | .setupPrescale d => Sys2Proof.Machine.execSetupPrescale d s
  | .setupMode2 d => Sys2Proof.Machine.execSetupMode2 d s
  | .setupCh0f d => Sys2Proof.Machine.execSetupCh0f d s
  | .setupCh23 d => Sys2Proof.Machine.execSetupCh23 d s
  | .dispatch => Sys2Proof.Machine.execDispatch s
  | .readSrc => Sys2Proof.Machine.execReadSrc s
  | .decodeSrc => Sys2Proof.Machine.execDecodeSrc s
  | .excReturn => Sys2Proof.Machine.execExcReturn s
  | .write a d => Sys2Proof.Machine.execWrite a d s
  | .pollBusy a => Sys2Proof.Machine.execPollBusy a s
  | .setCount => Sys2Proof.Machine.execSetCount s
  | .xrdyEnable => Sys2Proof.Machine.execXrdyEnable s
  | .dataWrite b => Sys2Proof.Machine.execDataWrite b s
  | .completeCheck a => Sys2Proof.Machine.execCompleteCheck a s
  | .tick => Sys2Proof.Machine.execTick s
  | .tickIdle => Sys2Proof.Machine.execTickIdle s
  | .tickStep => Sys2Proof.Machine.execTickStep s
  | .emitPhase p => Sys2Proof.Machine.execEmitPhase p s
  | .advancePhase => Sys2Proof.Machine.execAdvancePhase s
  | .countStep => Sys2Proof.Machine.execCountStep s
  | .tickBrake => Sys2Proof.Machine.execTickBrake s
  | .brake => Sys2Proof.Machine.execBrake s
  | .resetToIdle => Sys2Proof.Machine.execResetToIdle s
  | .failStep => Sys2Proof.Machine.execFailStep s
  | .button => Sys2Proof.Machine.execButton s
  | .arm => Sys2Proof.Machine.execArm s
  | .buttonIgnored => Sys2Proof.Machine.execButtonIgnored s
  | .timerProgram n purpose => Sys2Proof.Machine.execTimerProgram n purpose s
  | .timerStatusClear => Sys2Proof.Machine.execTimerStatusClear s
  | .gpioStatusClear => Sys2Proof.Machine.execGpioStatusClear s
  | .delayByte => Sys2Proof.Machine.execDelayByte s
  | .i2cInit => Sys2Proof.Machine.execI2cInit s
  | .gpioEdgeConfig => Sys2Proof.Machine.execGpioEdgeConfig s
  | .intcConfig => Sys2Proof.Machine.execIntcConfig s
  | .timerConfig => Sys2Proof.Machine.execTimerConfig s
  | .pwmSetup => Sys2Proof.Machine.execPwmSetup s
  | .enableInterrupts => Sys2Proof.Machine.execEnableInterrupts s
  | .disableInterrupts => Sys2Proof.Machine.execDisableInterrupts s
  | .trapEntry => Sys2Proof.Machine.execTrapEntry s

end Sys2Proof.Machine
end

