-- ==== Sys2Proof/Machine/Turn.lean ====
section
/-! DEFINITION. Whose move it is and what the core does on its move: run the statement at its position, or in Main take
a deliverable interrupt, or stutter (spec/60_exceptions.md R207, R223, spec/20_memory.md R64). -/

namespace Sys2Proof.Machine

/-- The core with nothing left to run: in Main it takes TRAP_ENTRY when R207 allows, and otherwise stutters (60 R223).
In boot and in a handler this is a place no rule produces. -/
def idle (s : State) : Out :=
  match s.core.ctx with
  | .main => if s.deliverable then exec .trapEntry s else .next s
  | _ => .fault .programRanOut

/-- The core's move: the statement at the head of its continuation (10 R28). Passing a mark has no effect. -/
def coreTurn (s : State) : Out :=
  match s.core.cont with
  | [] => idle s
  | .op i :: k => exec i (setCont k s)
  | .unlisted nbits w :: _ => .refused (.undecodable nbits w)
  | .raise f info :: k => .next (raiseFault f info (setCont k s))
  | .stepTail :: k => .next (afterCount (setCont k s))
  | .checkLoop :: k => checkRead (setCont k s)
  | .rawLoop :: k => rawRead (setCont k s)
  | .xactMark _ _ :: k => .next (setCont k s)
  | .writeEnd :: k => .next (setCont k s)
  | .catchFail :: k => .next (setCont k s)
  | .catchBoot :: k => .next (setCont k s)

/-- The remaining moves. -/
def setScript (ms : List Move) (s : State) : State := { s with env.script := ms }

/-- One step of the interleaving: the script's next move, and the core's when the script has ended (log 3). -/
def turn (s : State) : Out :=
  match s.env.script with
  | [] => coreTurn s
  | .core :: ms => coreTurn (setScript ms s)
  | m :: ms => .next (agentMove m (setScript ms s))

/-- What stands at the core's position for a table word: its instruction, or a word no row lists. -/
def tableItem (nbits w : Nat) : Item :=
  match decodeTableWord nbits w with
  | some i => .op i
  | none => .unlisted nbits w

/-- The state with a table word's instruction as the core's next statement and the core's move next (log 8). -/
def layWord (s : State) (nbits w : Nat) : State :=
  { s with core.cont := tableItem nbits w :: s.core.cont, env.script := .core :: s.env.script }

end Sys2Proof.Machine
end

