-- ==== Sys2Proof/Machine/Step.lean ====
section
/-! DEFINITION. The step of the machine, and the host's way to lay one instruction at the core's position. -/

namespace Sys2Proof.Machine

/-- One step of the machine (20 R64). -/
def step (s : State) : Host.Outcome State Fault Refusal := turn s

/-- `s` with the instruction of a table word as the very next thing the step runs (log 8). -/
def State.withFetchWord (s : State) (nbits w : Nat) : State := layWord s nbits w

end Sys2Proof.Machine
end

