-- ==== Sys2Proof/Machine/Trace.lean ====
section
/-! DEFINITION. What is read off the trace: the transaction log and the write trace (spec/10_state.md R45), the refusal
mark of the transactions (30_encoding.md R93) and the trace syntax (R96). -/

namespace Sys2Proof.Machine

/-- The transaction of an XACT event. -/
def Event.xact? : Event → Option (Byte × Byte)
  | .xact a d => some (a, d)
  | _ => none

/-- The register and word of a WR event. -/
def Event.wr? : Event → Option (Reg × Word)
  | .wr r v => some (r, v)
  | _ => none

/-- The transaction log of a trace (10 R45). -/
def xactLog (es : List Event) : List (Byte × Byte) := es.filterMap Event.xact?

/-- The write trace (10 R45). -/
def writeTrace (es : List Event) : List (Reg × Word) := es.filterMap Event.wr?

/-- The transaction is one of the XACT rows (30 R91). -/
def listedXact (c : Params) (a d : Byte) : Bool :=
  match decode c (.xact a d) with
  | .ok _ => true
  | .error _ => false

/-- The refusal mark for transactions (30 R93; 60 R200: a mark kept for the whole state): the core has handed over one
that is outside the XACT rows. WRITE itself checks nothing (41 R120), and the mark says that the run is not admitted
(log 18). -/
def State.refusalMark (s : State) : Bool := (xactLog s.core.trace).any (fun p => !listedXact s.cfg p.1 p.2)

/-- The label a register is printed with (10 R32 to R35). -/
def regLabel : Reg → String
  | .i2cStat => "I2C.STAT"
  | .i2cCnt => "I2C.CNT"
  | .i2cCon => "I2C.CON"
  | .i2cIe => "I2C.IE"
  | .i2cData => "I2C.DATA"
  | .i2cOa => "I2C.OA"
  | .i2cSa => "I2C.SA"
  | .gpioFalldet => "GPIO.FALLDET"
  | .gpioStatclr => "GPIO.STATCLR"
  | .intcReset => "INTC.RESET"
  | .intcMasken => "INTC.MASKEN"
  | .intcNewirq => "INTC.NEWIRQ"
  | .intcActive => "INTC.ACTIVE"
  | .timerReset => "TIMER.RESET"
  | .timerStatclr => "TIMER.STATCLR"
  | .timerOvfie => "TIMER.OVFIE"
  | .timerReload => "TIMER.RELOAD"
  | .timerRawstat => "TIMER.RAWSTAT"

/-- One hexadecimal digit. -/
def hexDigit (n : Nat) : Char :=
  ['0', '1', '2', '3', '4', '5', '6', '7', '8', '9', 'A', 'B', 'C', 'D', 'E', 'F'].getD (n % 16) '0'

/-- `k` hexadecimal digits of `n`, most significant first. -/
def hexDigits : Nat → Nat → List Char
  | 0, _ => []
  | k + 1, n => hexDigits k (n / 16) ++ [hexDigit n]

/-- A word as `0x` and 8 digits (30 R96). -/
def printWord (w : Word) : String := "0x" ++ String.ofList (hexDigits 8 w.toNat)

/-- A byte as `0x` and 2 digits (30 R96). -/
def printByte (b : Byte) : String := "0x" ++ String.ofList (hexDigits 2 b.toNat)

/-- A fault's information: the bus faults record a byte, UnknownInterrupt a word (30 R96, 40 R105). -/
def printFault : FaultCode → Word → String
  | .busTimeout, i => "BusTimeout, " ++ printByte (BitVec.setWidth 8 i)
  | .transactionFailed, i => "TransactionFailed, " ++ printByte (BitVec.setWidth 8 i)
  | .unknownInterrupt, i => "UnknownInterrupt, " ++ printWord i

/-- One line of the trace (30 R96). -/
def printEvent : Event → String
  | .rd r v => "RD " ++ regLabel r ++ " -> " ++ printWord v
  | .wr r v => "WR " ++ regLabel r ++ ", " ++ printWord v
  | .xact a d => "XACT " ++ printByte a ++ ", " ++ printByte d
  | .delay => "DELAY ByteSpacing"
  | .entry => "ENTRY"
  | .ret => "RETURN"
  | .fault f i => "FAULT " ++ printFault f i

end Sys2Proof.Machine
end

