-- ==== Sys2Proof/Safety.lean ====
section
/-! DEFINITION. The terms claims are made in: the two configurations (spec/00_scope.md R9), the clean-entry premise
(70_reset_and_hazards.md R234), the end of a run (R252), and the invariants of 10_state.md R26 and R29. -/

namespace Sys2Proof.Machine

/-- `Faithful` (00 R9). -/
def Faithful (c : Params) : Bool :=
  c.unknownIrqPolicy == .twoWay && c.pollBudget == none && !c.nackDetect

/-- `Hardened` (00 R9). -/
def Hardened (c : Params) : Bool := c.unknownIrqPolicy == .flag || c.pollBudget != none

/-- What boot reaches: `CleanEntry` (70 R234) but for the three ways R234 allows, the trace, OVF and LATCH. In Main the
core has nothing left to run. I2C_INIT has set the addresses, and CON holds its word or that of a later setup write. -/
def AfterBoot (s : State) : Prop :=
  s.core.armed = false ∧ s.core.phase = .p1 ∧ s.core.steps = 0
  ∧ s.core.ctx = .main ∧ s.core.imask = false ∧ s.core.saved = none
  ∧ s.core.faults = [] ∧ s.core.unknownIrqCount = 0#32 ∧ s.core.cont = []
  ∧ s.intc.gate = true ∧ s.intc.extraPend = false
  ∧ s.timer.ovfie = true ∧ s.intc.enTimer = true ∧ s.intc.enGpio = true
  ∧ s.gpio.falldet.bit s.cfg.buttonLine = true
  ∧ (s.i2c.con = Config.conInitWord ∨ s.i2c.con = Config.conXferWord)
  ∧ s.i2c.oa = s.cfg.ownAddr ∧ s.i2c.sa = s.cfg.slaveAddr
  ∧ s.busy = false ∧ s.i2c.txq = [] ∧ s.i2c.txn = none

/-- `CleanEntry` (70 R234). -/
def CleanEntry (s : State) : Prop :=
  AfterBoot s ∧ s.timer.ovf = false ∧ s.gpio.latch = false ∧ s.core.trace = []

/-- A main-context boundary: the idle loop, with nothing left to run. -/
def AtMain (s : State) : Prop := s.core.ctx = .main ∧ s.core.cont = []

/-- A main-context boundary at which the sequencer is Idle. -/
def idleBoundary (s : State) : Bool := s.core.ctx == .main && s.core.cont.isEmpty && !s.core.armed

/-- The next move is the core's. -/
def coreMoves (s : State) : Bool :=
  match s.env.script with
  | [] => true
  | .core :: _ => true
  | _ => false

/-- The next step is the ARM step (43 R161), where a commanded run begins (70 R252). -/
def atArm (s : State) : Bool :=
  coreMoves s && !s.core.armed
    && match s.core.cont with
      | .op .arm :: _ => true
      | _ => false

/-- The next step is the ENTRY of a delivery (60 R209). -/
def atDelivery (s : State) : Bool :=
  coreMoves s && s.core.cont.isEmpty && s.deliverable

/-- The ARM step the handler delivered at `s` comes to within `n` steps, before it returns. -/
def toArm : Nat → State → Option State
  | 0, s => if atArm s then some s else none
  | n + 1, s =>
    if atArm s then some s
    else
      match step s with
      | .next u => if u.core.ctx = .handler then toArm n u else none
      | _ => none

/-- The first idle main-context boundary after `s`, if it comes within `n` steps. -/
def firstIdle : Nat → State → Option State
  | 0, _ => none
  | n + 1, s =>
    match step s with
    | .next u => if idleBoundary u then some u else firstIdle n u
    | _ => none

/-- A commanded run (70 R252): the delivery of the button at `b`, its ARM step at `a`, where the run begins, and the
first main-context boundary after it at which the sequencer is Idle, `t`, where the run ends. -/
def CommandedRun (b a t : State) : Prop :=
  atDelivery b = true ∧ (∃ m, toArm m b = some a) ∧ ∃ n, firstIdle n a = some t

/-- The observation of a commanded run (70 R252): the trace from the ENTRY of the delivery at `b` to the RETURN at whose
step `t` is reached. -/
def observation (b t : State) : List Event := t.core.trace.drop b.core.trace.length

/-- The run that ends at `t` is quiescent at its end (70 R252). -/
def Quiescent (t : State) : Prop := idleBoundary t = true ∧ t.i2c.txq = [] ∧ t.i2c.txn = none

/-- The context, the saved context and the mask fit together (10 R29, 60 R212, 70 R232). -/
def ContextCoherent (s : State) : Prop :=
  (s.core.ctx = .boot → s.core.saved = none ∧ s.core.imask = true)
  ∧ (s.core.ctx = .main → s.core.saved = none)
  ∧ (s.core.ctx = .handler → s.core.imask = true ∧ ∃ c, s.core.saved = some c ∧ c.imask = false)

/-- BB is set while a transaction is in progress (60 R219, 70 R239). -/
def BusyWhileSending (s : State) : Prop := s.i2c.txn ≠ none → s.busy = true

/-- ADVANCE_PHASE and COUNT_STEP stand in the program only as TICK_STEP puts them there, one after the other and followed
by the test of the step limit (42 R142); at the head the pair may be half done. -/
def paired : List Item → Prop
  | [] => True
  | .op .advancePhase :: .op .countStep :: .stepTail :: k => paired k
  | .op .advancePhase :: _ => False
  | .op .countStep :: _ => False
  | _ :: k => paired k

/-- The program after a half-done pair's first half has been taken off. -/
def pairedHere (k : List Item) : Prop :=
  match k with
  | .op .countStep :: .stepTail :: k' => paired k'
  | _ => paired k

/-- ADVANCE_PHASE has run and its COUNT_STEP is next. -/
def midPair (k : List Item) : Bool :=
  match k with
  | .op .countStep :: _ => true
  | _ => false

/-- A statement that advances or counts. -/
def isStepping : Item → Bool
  | .op .advancePhase => true
  | .op .countStep => true
  | _ => false

/-- A statement that may bring the sequencer back to Idle, directly or through what it calls. -/
def mayReset : Item → Bool
  | .op .trapEntry => true
  | .op .dispatch => true
  | .op .decodeSrc => true
  | .op (.dispatchTimer _) => true
  | .op .tick => true
  | .op .tickStep => true
  | .op .tickBrake => true
  | .op .failStep => true
  | .op .resetToIdle => true
  | .stepTail => true
  | .catchFail => true
  | _ => false

/-- Nothing that may reset comes before a statement that advances or counts. -/
def resetsLast : List Item → Prop
  | [] => True
  | x :: k => (mayReset x = true → k.all (fun y => !isStepping y) = true) ∧ resetsLast k

/-- The program is one the rules put there, as far as the sequencer's registers are concerned. -/
def ProgramShaped (s : State) : Prop := pairedHere s.core.cont ∧ resetsLast s.core.cont

/-- 10 R26 (c) at every point of a handler: the phase is `(steps mod 4) + 1`, or one ahead inside the pair. -/
def PhaseTracksSteps (s : State) : Prop :=
  if midPair s.core.cont then s.core.phase.toNat = (s.core.steps + 1) % 4 + 1
  else s.core.phase.toNat = s.core.steps % 4 + 1

/-- 10 R26 (d) at every point of a handler: Idle means no steps counted, and none about to be. -/
def IdleIsReset (s : State) : Prop :=
  s.core.armed = false → s.core.steps = 0 ∧ s.core.cont.all (fun y => !isStepping y) = true

/-- A statement that brings the sequencer to Idle whatever happens inside it, once the step limit is reached. -/
def bringsIdle : Item → Bool
  | .op .resetToIdle => true
  | .op .failStep => true
  | .op .tickBrake => true
  | .stepTail => true
  | _ => false

/-- Whether a statement that brings Idle is due, and whether it still is after an error at this place. -/
def idleDue : List Item → Bool × Bool
  | [] => (false, false)
  | x :: k =>
    (bringsIdle x || ((idleDue k).1 && (idleDue k).2),
      match x with
      | .catchFail => true
      | .catchBoot => (idleDue k).1
      | _ => (idleDue k).2)

/-- 10 R26 (b) at every point of a handler: with SameTick, a step count of 200 is on its way to Idle. -/
def BrakesInSameTick (s : State) : Prop :=
  s.cfg.brakeTick = .sameTick → s.core.steps = Config.stepLimit → (idleDue s.core.cont).1 = true

/-- The sequencer invariant: 10 R24, R26 (b), (c) and (d), with the shape of the program they rest on. -/
def SequencerCoherent (s : State) : Prop :=
  ProgramShaped s ∧ s.core.steps ≤ Config.stepLimit ∧ BrakesInSameTick s ∧ PhaseTracksSteps s ∧ IdleIsReset s

/-- No fault can be about to be raised. -/
def noRaise (k : List Item) : Bool :=
  k.all (fun x => match x with | .raise _ _ => false | _ => true)

/-- 10 R44: in Faithful the fault log and the counter stay at their reset values. -/
def FaultFree (s : State) : Prop :=
  Faithful s.cfg = true ∧ noRaise s.core.cont = true ∧ s.core.faults = [] ∧ s.core.unknownIrqCount = 0#32

/-- 30 R93: every word in the write trace is one the register's rows list. -/
def WritesListed (s : State) : Prop :=
  ∀ p ∈ writeTrace s.core.trace, accepts s.cfg p.1 p.2 = true

/-- A pending `write`, or one in progress, is of a transaction the XACT rows list. -/
def callsListed (c : Params) : Item → Bool
  | .op (.write a d) => listedXact c a d
  | .xactMark a d => listedXact c a d
  | _ => true

/-- 30 R93 and 60 R200 for transactions: none outside the XACT rows has been handed over or is about to be, under
parameters that meet the spec's constraints. -/
def TransactionsListed (s : State) : Prop :=
  s.cfg.ok = true ∧ s.core.cont.all (callsListed s.cfg) = true ∧ s.refusalMark = false

/-- The moves of the core and the bus in one `write` when the bus finishes it before the core's next read
(spec/95_test_vectors.md, the eager-bus schedule). -/
def eagerWrite : List Move := List.replicate 10 .core ++ [.busShift, .busShift, .busFinish false, .busLine false]

/-- The moves of one stepping tick under the eager-bus schedule. -/
def eagerTick : List Move :=
  List.replicate 9 .core ++ (eagerWrite ++ [.core]) ++ (eagerWrite ++ [.core]) ++ (eagerWrite ++ [.core])
    ++ (eagerWrite ++ [.core]) ++ List.replicate 7 .core

/-- The moves of boot under the eager-bus schedule: 14 statements, and for each setup pair one `write` and its mark. -/
def eagerBoot (c : Params) : List Move :=
  List.replicate 5 .core ++ c.pwmSetupSeq.flatMap (fun _ => eagerWrite ++ [.core]) ++ List.replicate 9 .core

/-- The events of one `write` when the poll's first read finds the bus free. -/
def writeEvents (v : Word) (p : Byte × Byte) : List Event :=
  [.rd .i2cStat v, .wr .i2cCnt 0x00000002#32, .wr .i2cCon 0x00008603#32, .wr .i2cIe 0x00000010#32,
    .wr .i2cData (BitVec.setWidth 32 p.1), .wr .i2cIe 0x00000010#32, .wr .i2cData (BitVec.setWidth 32 p.2),
    .xact p.1 p.2]

/-- The events of one phase write and its delay. -/
def phaseWriteEvents (v : Word) (p : Byte × Byte) : List Event := writeEvents v p ++ [.delay]

/-- `k` Timer steps. -/
def timerSteps : Nat → State → State
  | 0, s => s
  | k + 1, s => timerSteps k (timerTick s)

end Sys2Proof.Machine
end

