-- ==== Sys2Proof/Certificates/Slice0/Obligations.lean ====
section
/-! DEFINITION. The statements for the provers. An effect is written out as the whole next state, so that each equation
is the instruction's result, its completion and its frame at once: what the right side does not name is unchanged. A
composite operation puts its statements in front of the program that is still to run (spec/10_state.md R28, log 5). -/

open Sys2Proof Sys2Proof.Machine

/-! ### Encodings -/

/-- Decoding the encoding of a well-formed row gives the row back, for every row and every field value. Derived from
the tables of spec/30_encoding.md section 3. -/
def Obligations.DecodeOfEncode : Prop :=
  ∀ (c : Params) (i : Instr) (k : Code), i.WellFormed c = true → encode c i = some k → decode c k = .ok i

/-- What decodes is a well-formed row, and it encodes to the code it was read from: no two rows share a code. -/
def Obligations.EncodeOfDecode : Prop :=
  ∀ (c : Params) (k : Code) (i : Instr), decode c k = .ok i → i.WellFormed c = true ∧ encode c i = some k

/-- A few words written out from spec/30_encoding.md R81 to R91 decode to the rows they stand for. -/
def Obligations.ListedWordsDecode : Prop :=
  ∀ c : Params,
    decode c (.reg .i2cCon 0x00008603#32) = .ok .conXfer
    ∧ decode c (.reg .i2cCon 0x00008000#32) = .ok .conInit
    ∧ decode c (.reg .i2cCnt 0x00000002#32) = .ok .cnt2
    ∧ decode c (.reg .i2cIe 0x00000010#32) = .ok .ieXrdy
    ∧ decode c (.reg .i2cData 0x000000FD#32) = .ok (.dataByte 0xFD#8)
    ∧ decode c (.reg .i2cStat 0x00001000#32) = .ok (.busy 0x00001000#32)
    ∧ decode c (.reg .i2cStat 0xFFFFEFFF#32) = .ok (.free 0xFFFFEFFF#32)
    ∧ decode c (.xact 0xFD#8 0x10#8) = .ok .brakeAllOff
    ∧ decode c (.xact 0xFD#8 0x00#8) = .ok .brakeRelease
    ∧ decode c (.xact 0xFE#8 0x79#8) = .ok (.setupPrescale 0x79#8)
    ∧ (c.unknownIrqPolicy = .twoWay →
        decode c (.reg .intcActive 0xFFFFFFFB#32) = .ok (.dispatchTimer 0xFFFFFFFB#32)
        ∧ decode c (.reg .intcActive 0x00000044#32) = .ok (.dispatchGpio 0x00000044#32))

/-- spec/30_encoding.md R93: at every register, a word that is no row of it is rejected by the decoder and refused by
RegWrite, and so is every write of a register the block only reads; a transaction outside the XACT rows is rejected by
the decoder, and the step that hands one over sets the refusal mark, which no step clears (60_exceptions.md R200). Every
word of I2C.STAT, INTC.ACTIVE and TIMER.RELOAD is a row. That WRITE itself does not check its operands (41_i2c_master.md
R120), so that the mark and not a stop refuses such a transaction, is log 18. -/
def Obligations.UnlistedWordsRefused : Prop :=
  (∀ (c : Params) (w : Word), w ≠ 0x00008603#32 → w ≠ 0x00008000#32 →
      decode c (.reg .i2cCon w) = .error (.unlistedWord .i2cCon w))
  ∧ (∀ (c : Params) (w : Word), w ≠ 0x00000002#32 → decode c (.reg .i2cCnt w) = .error (.unlistedWord .i2cCnt w))
  ∧ (∀ (c : Params) (w : Word), w ≠ 0x00000010#32 → decode c (.reg .i2cIe w) = .error (.unlistedWord .i2cIe w))
  ∧ (∀ (c : Params) (w : Word), 256 ≤ w.toNat → decode c (.reg .i2cData w) = .error (.unlistedWord .i2cData w))
  ∧ (∀ (c : Params) (w : Word) (r : Reg), r = .gpioStatclr ∨ r = .gpioFalldet → w ≠ 1#32 <<< c.buttonLine.val →
      decode c (.reg r w) = .error (.unlistedWord r w))
  ∧ (∀ (c : Params) (r : Reg) (p w : Word),
      (r, p) ∈ [(.timerStatclr, c.timerClrValue), (.intcNewirq, c.newirqAckValue), (.i2cOa, c.ownAddr),
        (.i2cSa, c.slaveAddr), (.intcReset, c.intcResetValue), (.timerReset, c.timerResetValue),
        (.timerOvfie, c.ovfieValue)] →
      w ≠ p → decode c (.reg r w) = .error (.unlistedWord r w))
  ∧ (∀ (c : Params) (w : Word), w ≠ c.maskenTimerValue → w ≠ c.maskenGpioValue →
      decode c (.reg .intcMasken w) = .error (.unlistedWord .intcMasken w))
  ∧ (∀ (c : Params) (w : Word), c.byteDelayMode = .abstract ∨ w.getLsbD c.ovfBit = false →
      decode c (.reg .timerRawstat w) = .error (.unlistedWord .timerRawstat w))
  ∧ (∀ (c : Params) (a d : Byte), a ∉ channelRegs ++ setupRegs → ¬(a = 0xFD#8 ∧ (d = 0x10#8 ∨ d = 0x00#8)) →
      decode c (.xact a d) = .error (.unlistedXact a d))
  ∧ (∀ (c : Params) (a d : Byte), a ∈ channelRegs → d ≠ c.highVal → d ≠ c.lowVal →
      decode c (.xact a d) = .error (.unlistedXact a d))
  ∧ (∀ (s : State) (b a d : Byte) (k : List Item), s.core.cont = .xactMark a d :: k →
      decode s.cfg (.xact a d) = .error (.unlistedXact a d) →
      ∃ t, exec (.dataWrite b) s = .next t ∧ t.refusalMark = true)
  ∧ (∀ s t : State, step s = .next t → s.refusalMark = true → t.refusalMark = true)
  ∧ (∀ (s : State) (r : Reg) (v : Word), decode s.cfg (.reg r v) = .error (.unlistedWord r v) →
      regWrite r v s = .refused (.unlistedWord r v))
  ∧ (∀ (s : State) (r : Reg) (v : Word), r = .i2cStat ∨ r = .intcActive ∨ r = .timerRawstat →
      regWrite r v s = .refused (.unlistedWord r v))

/-- The host's word is run: a table word that decodes is the very next thing the step does, on the state it was laid
in, and one that does not is refused. What a table word decodes to and where it is laid are the model's choice (logs 7
and 8). -/
def Obligations.StepRunsLaidWord : Prop :=
  (∀ (s : State) (nbits w : Nat) (i : Instr), decodeTableWord nbits w = some i →
      step (s.withFetchWord nbits w) = exec i s)
  ∧ (∀ (s : State) (nbits w : Nat), decodeTableWord nbits w = none →
      step (s.withFetchWord nbits w) = .refused (.undecodable nbits w))

/-- The step on the core's move is the instruction at the head of the program, run with the rest of the program to
follow; every other move is its agent's (spec/10_state.md R28, spec/20_memory.md R64). -/
def Obligations.StepRunsProgramHead : Prop :=
  (∀ (s : State) (i : Instr) (k : List Item), s.env.script = [] → s.core.cont = .op i :: k →
      step s = exec i { s with core.cont := k })
  ∧ (∀ (s : State) (i : Instr) (k : List Item) (ms : List Move), s.env.script = .core :: ms →
      s.core.cont = .op i :: k → step s = exec i { s with core.cont := k, env.script := ms })
  ∧ (∀ (s : State) (m : Move) (ms : List Move), s.env.script = m :: ms → m ≠ .core →
      step s = .next (agentMove m { s with env.script := ms }))

/-! ### Dispatcher -/

/-- spec/40_dispatcher.md R101, R102: READ_SRC gives the word latched at delivery, and the trace gets the read;
DECODE_SRC takes the word's branch, with no event and no other effect. -/
def Obligations.SourceReadAndDecoded : Prop :=
  (∀ s : State, exec .readSrc s = .next
    { s with
      core.trace := s.core.trace ++ [.rd .intcActive s.intc.active]
      core.locals.srcWord := s.intc.active })
  ∧ (∀ s : State,
    let w := s.core.locals.srcWord
    exec .decodeSrc s = .next
      { s with
        core.cont :=
          .op (if s.cfg.unknownIrqPolicy = .flag ∧ w ≠ s.cfg.srcWordTimer ∧ w ≠ s.cfg.srcWordGpio then
                .dispatchUnknown w
              else if w.getLsbD 2 = true then .dispatchGpio w
              else .dispatchTimer w) :: s.core.cont })

/-- spec/40_dispatcher.md R100, R103, R104: read, route, acknowledge, return; and each branch clears its status first
and then runs its handler. -/
def Obligations.DispatchSequences : Prop :=
  (∀ s : State, (.op .excReturn) ∉ s.core.cont → exec .dispatch s = .next
      { s with core.cont := .op .readSrc :: .op .decodeSrc :: .op .newirqAck :: .op .excReturn :: s.core.cont })
  ∧ (∀ (w : Word) (s : State), exec (.dispatchTimer w) s = .next
      { s with core.cont := .op .timerStatusClear :: .op .tick :: s.core.cont })
  ∧ (∀ (w : Word) (s : State), exec (.dispatchGpio w) s = .next
      { s with core.cont := .op .gpioStatusClear :: .op .button :: s.core.cont })

/-- spec/40_dispatcher.md R105: in Flag the counter counts modulo 2^32 and the fault is raised by the next step; no
peripheral status is cleared. -/
def Obligations.UnknownSourceCounted : Prop :=
  ∀ (w : Word) (s : State), s.cfg.unknownIrqPolicy = .flag →
    exec (.dispatchUnknown w) s = .next
      { s with
        core.unknownIrqCount := s.core.unknownIrqCount + 1#32
        core.cont := .raise .unknownInterrupt w :: s.core.cont }

/-- Raising a fault appends its record and its event (spec/60_exceptions.md R200). UnknownInterrupt then goes on (40
R105). Inside a tick a bus fault drops the rest of the failing calls and runs FAIL_STEP (41 R121, R127, 42 R149).
Inside PWM_SETUP boot goes on with the next setup write (44 R179). A `write` that nobody tests just returns (log 21). -/
def Obligations.RaisingAFault : Prop :=
  (∀ (s : State) (w : Word) (k : List Item), s.env.script = [] → s.core.cont = .raise .unknownInterrupt w :: k →
      step s = .next
        { s with
          core.faults := s.core.faults ++ [(.unknownInterrupt, w)]
          core.trace := s.core.trace ++ [.fault .unknownInterrupt w]
          core.cont := k })
  ∧ (∀ (s : State) (f : FaultCode) (w : Word) (mid k : List Item),
      f = .busTimeout ∨ f = .transactionFailed → .catchFail ∉ mid → .catchBoot ∉ mid → s.env.script = [] →
      s.core.cont = .raise f w :: (mid ++ .catchFail :: k) →
      step s = .next
        { s with
          core.faults := s.core.faults ++ [(f, w)]
          core.trace := s.core.trace ++ [.fault f w]
          core.cont := .op .failStep :: k })
  ∧ (∀ (s : State) (f : FaultCode) (w : Word) (mid k : List Item),
      f = .busTimeout ∨ f = .transactionFailed → .catchFail ∉ mid → .catchBoot ∉ mid → s.env.script = [] →
      s.core.cont = .raise f w :: (mid ++ .catchBoot :: k) →
      step s = .next
        { s with
          core.faults := s.core.faults ++ [(f, w)]
          core.trace := s.core.trace ++ [.fault f w]
          core.cont := k })
  ∧ (∀ (s : State) (f : FaultCode) (w : Word) (mid k : List Item),
      f = .busTimeout ∨ f = .transactionFailed → (∀ x ∈ mid ++ k, x ≠ .catchFail ∧ x ≠ .catchBoot) →
      .writeEnd ∉ mid → s.env.script = [] → s.core.cont = .raise f w :: (mid ++ .writeEnd :: k) →
      step s = .next
        { s with
          core.faults := s.core.faults ++ [(f, w)]
          core.trace := s.core.trace ++ [.fault f w]
          core.cont := k })

/-- spec/40_dispatcher.md R106: the saved pc and status come back, the mask with them, and Main goes on. With nothing
saved it is refused, as spec/60_exceptions.md R200 and spec/93_implementation_defined.md I-12 list it; R106 says that a
model faults it, and the refusal is the model's choice between them (log 20). -/
def Obligations.ExcReturnRestores : Prop :=
  (∀ (s : State) (c : Saved), s.core.saved = some c → exec .excReturn s = .next
      { s with
        core.pc := c.pc
        core.status := c.status
        core.imask := c.imask
        core.saved := none
        core.ctx := .main
        core.trace := s.core.trace ++ [.ret] })
  ∧ (∀ s : State, s.core.saved = none → exec .excReturn s = .refused .returnWithoutContext)

/-- spec/60_exceptions.md R209 with R207 and R210: a delivery latches the word of a pending source, closes the gate,
saves the main loop's pc and status with the mask bit clear, masks interrupts and enters the handler at DISPATCH. For
every pending source there is a controller's choice that delivers it. -/
def Obligations.TrapEntryTakesInterrupt : Prop :=
  (∀ s : State, s.core.ctx = .main → s.core.imask = false → s.intc.gate = true →
      (s.pending .timer = true ∨ s.pending .gpio = true ∨ s.pending .extra = true) →
      ∃ src, s.pending src = true ∧ exec .trapEntry s = .next
        { s with
          intc.active := s.sourceWord src
          intc.gate := false
          core.saved := some { pc := s.core.pc, status := s.core.status, imask := false }
          core.imask := true
          core.ctx := .handler
          core.trace := s.core.trace ++ [.entry]
          core.cont := .op .dispatch :: s.core.cont })
  ∧ (∀ (s : State) (src : Source), s.core.ctx = .main → s.core.imask = false → s.intc.gate = true →
      s.pending src = true → s.env.pick = src →
      ∃ t, exec .trapEntry s = .next t ∧ t.intc.active = s.sourceWord src)

/-- spec/60_exceptions.md R206: the pending condition of each source, from the status bits and the enables. -/
def Obligations.PendingFromStatusBits : Prop :=
  ∀ s : State,
    (s.pending .timer = true ↔ s.timer.ovf = true ∧ s.timer.ovfie = true ∧ s.intc.enTimer = true)
    ∧ (s.pending .gpio = true ↔ s.gpio.latch = true ∧ s.intc.enGpio = true)
    ∧ (s.pending .extra = true ↔ s.cfg.extraSource ≠ none ∧ s.intc.extraPend = true)

/-- The core in Main with nothing to run takes TRAP_ENTRY exactly when spec/60_exceptions.md R207 allows a delivery, and
otherwise has no effect on any state (R223). -/
def Obligations.MainLoopDeliversOrStutters : Prop :=
  ∀ s : State, AtMain s → s.env.script = [] →
    ((s.intc.gate = true ∧ s.core.imask = false
        ∧ (s.pending .timer = true ∨ s.pending .gpio = true ∨ s.pending .extra = true)) →
      step s = exec .trapEntry s)
    ∧ (¬(s.intc.gate = true ∧ s.core.imask = false
        ∧ (s.pending .timer = true ∨ s.pending .gpio = true ∨ s.pending .extra = true)) → step s = .next s)

/-- Every form an instruction stops on by name. The nested and re-entrant ones are spec/60_exceptions.md R212,
spec/40_dispatcher.md R107, spec/41_i2c_master.md R128 and spec/70_reset_and_hazards.md R237. A TRAP_ENTRY that is not
nested is refused wherever R207 does not allow it; R224 names only the mask and the gate, and the other cases are the
model's (log 35). The rows absent from a configuration are 40 R105 and 41 R127 (log 26), the unlisted mask word and the
data byte a phase row excludes are 30 R93, and the preconditions are 42 R142, R145 and 43 R161: that a state outside one
is refused is the model's choice (log 19). EXC_RETURN with nothing saved is 60 R200 (log 20). -/
def Obligations.FormsRefused : Prop :=
  (∀ s : State, s.core.ctx = .handler → exec .trapEntry s = .refused .nestedTrap)
  ∧ (∀ s : State, s.core.ctx ≠ .handler →
      ¬(s.core.ctx = .main ∧ s.core.imask = false ∧ s.intc.gate = true
        ∧ (s.pending .timer = true ∨ s.pending .gpio = true ∨ s.pending .extra = true)) →
      exec .trapEntry s = .refused .notDeliverable)
  ∧ (∀ s : State, .op .excReturn ∈ s.core.cont → exec .dispatch s = .refused .nestedTrap)
  ∧ (∀ (s : State) (a d : Byte), .writeEnd ∈ s.core.cont → exec (.write a d) s = .refused .writeReentered)
  ∧ (∀ (s : State) (a d : Byte), .writeEnd ∉ s.core.cont → s.core.ctx = .main → s.core.imask = false →
      exec (.write a d) s = .refused .writeFromMain)
  ∧ (∀ s : State, s.core.ctx = .handler → exec .enableInterrupts s = .refused .unmaskInHandler)
  ∧ (∀ (s : State) (w : Word), s.cfg.unknownIrqPolicy = .twoWay → exec (.dispatchUnknown w) s = .refused .absentForm)
  ∧ (∀ (s : State) (a : Byte), s.cfg.nackDetect = false → exec (.completeCheck a) s = .refused .absentForm)
  ∧ (∀ (s : State) (v : Word), v ≠ s.cfg.maskenTimerValue → v ≠ s.cfg.maskenGpioValue →
      exec (.intcMasken v) s = .refused (.unlistedWord .intcMasken v))
  ∧ (∀ s : State, ¬(s.core.armed = true ∧ s.core.steps < 200) → exec .tickStep s = .refused .precondition)
  ∧ (∀ s : State, ¬(s.core.steps < 200) → exec .countStep s = .refused .precondition)
  ∧ (∀ s : State, s.core.armed = true → exec .arm s = .refused .precondition)
  ∧ (∀ s : State, s.core.saved = none → exec .excReturn s = .refused .returnWithoutContext)
  ∧ (∀ (s : State) (d : Byte), d ≠ s.cfg.highVal → d ≠ s.cfg.lowVal →
      exec (.phaseCh17 d) s = .refused (.unlistedXact 0x17#8 d)
      ∧ exec (.phaseCh13 d) s = .refused (.unlistedXact 0x13#8 d)
      ∧ exec (.phaseCh1b d) s = .refused (.unlistedXact 0x1B#8 d)
      ∧ exec (.phaseCh1f d) s = .refused (.unlistedXact 0x1F#8 d))

/-! ### I2C master -/

/-- spec/41_i2c_master.md R120: the statements of `write(a, d)` in their literal order, for every a and d. The mark
after the second DATA_WRITE is where that byte's step emits the XACT event (R126). -/
def Obligations.WriteExpands : Prop :=
  ∀ (a d : Byte) (s : State), .writeEnd ∉ s.core.cont → (s.core.ctx = .main → s.core.imask = true) →
    exec (.write a d) s = .next
      { s with
        core.cont :=
          [.op (.pollBusy a), .op .setCount, .op .conXfer, .op .xrdyEnable, .op (.dataWrite a), .op .xrdyEnable,
            .op (.dataWrite d), .xactMark a d]
          ++ (if s.cfg.nackDetect = true then [.op (.completeCheck a), .writeEnd] else [.writeEnd])
          ++ s.core.cont }

/-- spec/41_i2c_master.md R121: the first read of a poll, the free word that ends it, the busy word that holds it, and
the fault on the budget's last busy read. That FREE ends the poll and BUSY holds it on a word with the other value of
bit 12 too, which their rows (30_encoding.md R91) exclude, is the model's choice (log 36). -/
def Obligations.PollReadsStatus : Prop :=
  (∀ (a : Byte) (s : State), exec (.pollBusy a) s = .next
      { s with
        core.locals.pollAddr := a
        core.locals.busyReads := 0
        core.trace := s.core.trace ++ [.rd .i2cStat s.i2c.stat]
        core.cont :=
          .op (if s.i2c.stat.getLsbD 12 = true then .busy s.i2c.stat else .free s.i2c.stat) :: s.core.cont })
  ∧ (∀ (v : Word) (s : State), exec (.free v) s = .next s)
  ∧ (∀ (v : Word) (s : State) (b : Nat), s.cfg.pollBudget = some b → b ≤ s.core.locals.busyReads + 1 →
      exec (.busy v) s = .next
        { s with
          core.locals.busyReads := s.core.locals.busyReads + 1
          core.cont := .raise .busTimeout (BitVec.setWidth 32 s.core.locals.pollAddr) :: s.core.cont })
  ∧ (∀ (v : Word) (s : State), (∀ b, s.cfg.pollBudget = some b → s.core.locals.busyReads + 1 < b) →
      exec (.busy v) s = .next
        { s with
          core.locals.busyReads := s.core.locals.busyReads + 1
          core.trace := s.core.trace ++ [.rd .i2cStat s.i2c.stat]
          core.cont :=
            .op (if s.i2c.stat.getLsbD 12 = true then .busy s.i2c.stat else .free s.i2c.stat) :: s.core.cont })

/-- spec/41_i2c_master.md R122, R124: the byte count is programmed to 2, whatever is still in the queue; the
transmit-ready enable word is written whole, and nothing else changes (60 R225). -/
def Obligations.CountAndEnableWords : Prop :=
  ∀ (c : Params) (s : State), encode c .cnt2 = some (.reg .i2cCnt 0x00000002#32)
    ∧ (exec .setCount s = .next
        { s with core.trace := s.core.trace ++ [.wr .i2cCnt 0x00000002#32], i2c.cnt := 0x00000002#32 })
    ∧ (exec .cnt2 s = .next
        { s with core.trace := s.core.trace ++ [.wr .i2cCnt 0x00000002#32], i2c.cnt := 0x00000002#32 })
    ∧ encode c .ieXrdy = some (.reg .i2cIe 0x00000010#32)
    ∧ (exec .xrdyEnable s = .next
        { s with core.trace := s.core.trace ++ [.wr .i2cIe 0x00000010#32], i2c.ie := 0x00000010#32 })
    ∧ exec .ieXrdy s = .next
        { s with core.trace := s.core.trace ++ [.wr .i2cIe 0x00000010#32], i2c.ie := 0x00000010#32 }

/-- spec/41_i2c_master.md R123 and spec/70_reset_and_hazards.md R239: the control word starts a transaction of `cnt`
bytes and BB is set in the same step. That it starts one in the place of a transaction still in progress, and takes the
count held at this step, is the model's choice (logs 15 and 16). -/
def Obligations.ConXferStartsTransaction : Prop :=
  ∀ s : State, exec .conXfer s = .next
    { s with
      core.trace := s.core.trace ++ [.wr .i2cCon 0x00008603#32]
      i2c.con := 0x00008603#32
      i2c.txn := some { count := s.i2c.cnt.toNat, sent := [] }
      i2c.stat := s.i2c.stat ||| 0x00001000#32 }

/-- spec/41_i2c_master.md R125, R126: the byte is queued, zero-extended in the register; the step of the second byte of
`write(a, d)` also emits XACT right after its WR event. -/
def Obligations.DataWriteQueuesByte : Prop :=
  (∀ (i : Instr) (b : Byte) (s : State), i = .dataWrite b ∨ i = .dataByte b →
      (∀ a d k, s.core.cont ≠ .xactMark a d :: k) →
      exec i s = .next
        { s with
          core.trace := s.core.trace ++ [.wr .i2cData (BitVec.setWidth 32 b)]
          i2c.data := BitVec.setWidth 32 b
          i2c.txq := s.i2c.txq ++ [b] })
  ∧ (∀ (i : Instr) (b a d : Byte) (k : List Item) (s : State), i = .dataWrite b ∨ i = .dataByte b →
      s.core.cont = .xactMark a d :: k → exec i s = .next
        { s with
          core.trace := s.core.trace ++ [.wr .i2cData (BitVec.setWidth 32 b), .xact a d]
          core.cont := k
          i2c.data := BitVec.setWidth 32 b
          i2c.txq := s.i2c.txq ++ [b] })

/-- spec/41_i2c_master.md R127: the first read of COMPLETE_CHECK, and its test in order: NACK, then DONE, then the
budget of R121, then another round. -/
def Obligations.CompleteCheckTests : Prop :=
  ∀ (a : Byte) (s : State), s.cfg.nackDetect = true →
    let u : State :=
      { s with
        core.locals.pollAddr := a
        core.locals.busyReads := 0
        core.trace := s.core.trace ++ [.rd .i2cStat s.i2c.stat] }
    (s.i2c.stat.getLsbD s.cfg.nackBit = true → exec (.completeCheck a) s = .next
        { u with core.cont := .raise .transactionFailed (BitVec.setWidth 32 a) :: s.core.cont })
    ∧ (s.i2c.stat.getLsbD s.cfg.nackBit = false → s.i2c.stat.getLsbD s.cfg.doneBit = true →
        exec (.completeCheck a) s = .next u)
    ∧ (s.i2c.stat.getLsbD s.cfg.nackBit = false → s.i2c.stat.getLsbD s.cfg.doneBit = false →
        (∃ b, s.cfg.pollBudget = some b ∧ b ≤ 1) → exec (.completeCheck a) s = .next
          { u with
            core.locals.busyReads := 1
            core.cont := .raise .busTimeout (BitVec.setWidth 32 a) :: s.core.cont })
    ∧ (s.i2c.stat.getLsbD s.cfg.nackBit = false → s.i2c.stat.getLsbD s.cfg.doneBit = false →
        (∀ b, s.cfg.pollBudget = some b → 1 < b) → exec (.completeCheck a) s = .next
          { u with core.locals.busyReads := 1, core.cont := .checkLoop :: s.core.cont })

/-- spec/41_i2c_master.md R127: the later reads of COMPLETE_CHECK, from the head of its loop. -/
def Obligations.CompleteCheckLoops : Prop :=
  ∀ (s : State) (k : List Item), s.cfg.nackDetect = true → s.env.script = [] → s.core.cont = .checkLoop :: k →
    let n := s.core.locals.busyReads + 1
    let u : State := { s with core.trace := s.core.trace ++ [.rd .i2cStat s.i2c.stat], core.cont := k }
    let info : Word := BitVec.setWidth 32 s.core.locals.pollAddr
    (s.i2c.stat.getLsbD s.cfg.nackBit = true → step s = .next
        { u with core.cont := .raise .transactionFailed info :: k })
    ∧ (s.i2c.stat.getLsbD s.cfg.nackBit = false → s.i2c.stat.getLsbD s.cfg.doneBit = true → step s = .next u)
    ∧ (s.i2c.stat.getLsbD s.cfg.nackBit = false → s.i2c.stat.getLsbD s.cfg.doneBit = false →
        (∃ b, s.cfg.pollBudget = some b ∧ b ≤ n) → step s = .next
          { u with core.locals.busyReads := n, core.cont := .raise .busTimeout info :: k })
    ∧ (s.i2c.stat.getLsbD s.cfg.nackBit = false → s.i2c.stat.getLsbD s.cfg.doneBit = false →
        (∀ b, s.cfg.pollBudget = some b → n < b) → step s = .next
          { u with core.locals.busyReads := n, core.cont := .checkLoop :: k })

/-- The whole primitive in Faithful with a free bus and a quiet environment (spec/41_i2c_master.md R120, R126): the
literal eight events in order, the two bytes queued behind what was there, a transaction of two bytes in progress, and
the program goes on after the call. Ten model steps, of which two only pass a mark or end the poll (log 5). -/
def Obligations.WriteIssuesLiteralSequence : Prop :=
  ∀ (s : State) (a d : Byte) (k : List Item),
    s.env.script = [] → s.core.cont = .op (.write a d) :: k → .writeEnd ∉ k →
    (s.core.ctx = .main → s.core.imask = true) → s.cfg.nackDetect = false → s.i2c.stat.getLsbD 12 = false →
    Host.Core.run Sys2Proof.core 10 s = .next
      { s with
        core.trace := s.core.trace ++
          [.rd .i2cStat s.i2c.stat, .wr .i2cCnt 0x00000002#32, .wr .i2cCon 0x00008603#32, .wr .i2cIe 0x00000010#32,
            .wr .i2cData (BitVec.setWidth 32 a), .wr .i2cIe 0x00000010#32, .wr .i2cData (BitVec.setWidth 32 d),
            .xact a d]
        core.cont := k
        core.locals.pollAddr := a
        core.locals.busyReads := 0
        i2c.stat := s.i2c.stat ||| 0x00001000#32
        i2c.cnt := 0x00000002#32
        i2c.con := 0x00008603#32
        i2c.ie := 0x00000010#32
        i2c.data := BitVec.setWidth 32 d
        i2c.txq := s.i2c.txq ++ [a, d]
        i2c.txn := some { count := 2, sent := [] } }

/-- The XACT rows are the calls of `write` with their two bytes, a phase row with one of the two data bytes it admits
(spec/30_encoding.md R87, R91). That a row run by itself calls `write` is the model's reading (log 22). -/
def Obligations.TransactionRowsCallWrite : Prop :=
  ∀ (d : Byte) (s : State),
    (d = s.cfg.highVal ∨ d = s.cfg.lowVal →
      exec (.phaseCh17 d) s = .next { s with core.cont := .op (.write 0x17#8 d) :: s.core.cont }
      ∧ exec (.phaseCh13 d) s = .next { s with core.cont := .op (.write 0x13#8 d) :: s.core.cont }
      ∧ exec (.phaseCh1b d) s = .next { s with core.cont := .op (.write 0x1B#8 d) :: s.core.cont }
      ∧ exec (.phaseCh1f d) s = .next { s with core.cont := .op (.write 0x1F#8 d) :: s.core.cont })
    ∧ exec .brakeAllOff s = .next { s with core.cont := .op (.write 0xFD#8 0x10#8) :: s.core.cont }
    ∧ exec .brakeRelease s = .next { s with core.cont := .op (.write 0xFD#8 0x00#8) :: s.core.cont }
    ∧ exec (.setupMode1 d) s = .next { s with core.cont := .op (.write 0x00#8 d) :: s.core.cont }
    ∧ exec (.setupPrescale d) s = .next { s with core.cont := .op (.write 0xFE#8 d) :: s.core.cont }
    ∧ exec (.setupMode2 d) s = .next { s with core.cont := .op (.write 0x01#8 d) :: s.core.cont }
    ∧ exec (.setupCh0f d) s = .next { s with core.cont := .op (.write 0x0F#8 d) :: s.core.cont }
    ∧ exec (.setupCh23 d) s = .next { s with core.cont := .op (.write 0x23#8 d) :: s.core.cont }

/-! ### Sequencer -/

/-- spec/42_step_sequencer.md R140: Idle, at the limit, or a step; and R141: the idle tick does nothing. -/
def Obligations.TickChoosesRow : Prop :=
  (∀ s : State, s.core.armed = false → exec .tick s = .next { s with core.cont := .op .tickIdle :: s.core.cont })
  ∧ (∀ s : State, s.core.armed = true → s.core.steps = 200 →
      exec .tick s = .next { s with core.cont := .op .tickBrake :: s.core.cont })
  ∧ (∀ s : State, s.core.armed = true → s.core.steps ≠ 200 →
      exec .tick s = .next { s with core.cont := .op .tickStep :: s.core.cont })
  ∧ (∀ s : State, exec .tickIdle s = .next s)

/-- spec/42_step_sequencer.md R142: emit, advance, count, then the test of the step limit, and FAIL_STEP on an error;
and what that test does (R146). -/
def Obligations.TickStepOrder : Prop :=
  (∀ s : State, s.core.armed = true → s.core.steps < 200 → exec .tickStep s = .next
      { s with
        core.cont :=
          .op (.emitPhase s.core.phase) :: .op .advancePhase :: .op .countStep :: .stepTail :: .catchFail
            :: s.core.cont })
  ∧ (∀ (s : State) (k : List Item), s.env.script = [] → s.core.cont = .stepTail :: k →
      s.cfg.brakeTick = .sameTick → s.core.steps = 200 →
      step s = .next { s with core.cont := .op .tickBrake :: k })
  ∧ (∀ (s : State) (k : List Item), s.env.script = [] → s.core.cont = .stepTail :: k →
      (s.cfg.brakeTick = .nextTick ∨ s.core.steps ≠ 200) →
      step s = .next { s with core.cont := .op (.timerProgram s.cfg.stepTicks .stepAdvance) :: k })

/-- spec/42_step_sequencer.md R143: the four writes of the phase in table order, each followed by a delay. -/
def Obligations.EmitPhaseOrder : Prop :=
  ∀ (p : Phase) (s : State),
    let e := s.cfg.phaseTable.entry p
    exec (.emitPhase p) s = .next
      { s with
        core.cont :=
          .op (.write e.k0.1 e.k0.2) :: .op .delayByte :: .op (.write e.k1.1 e.k1.2) :: .op .delayByte
            :: .op (.write e.k2.1 e.k2.2) :: .op .delayByte :: .op (.write e.k3.1 e.k3.2) :: .op .delayByte
            :: s.core.cont }

/-- spec/42_step_sequencer.md R144, R145: the new phase is `(phase mod 4) + 1`; one step is counted, within the
precondition TICK guarantees; and nothing else changes. -/
def Obligations.AdvanceAndCount : Prop :=
  (∀ s : State, ∃ p : Phase, p.toNat = s.core.phase.toNat % 4 + 1
      ∧ exec .advancePhase s = .next { s with core.phase := p })
  ∧ (∀ s : State, s.core.steps < 200 → exec .countStep s = .next { s with core.steps := s.core.steps + 1 })

/-- spec/42_step_sequencer.md R146, R147: brake, then Idle, and FAIL_STEP on an error; the brake is exactly the two
transactions, with a delay after each only under BRAKE_DELAY. -/
def Obligations.BrakeSequence : Prop :=
  (∀ s : State, exec .tickBrake s = .next
      { s with core.cont := .op .brake :: .op .resetToIdle :: .catchFail :: s.core.cont })
  ∧ (∀ s : State, s.cfg.brakeDelay = false → exec .brake s = .next
      { s with core.cont := .op (.write 0xFD#8 0x10#8) :: .op (.write 0xFD#8 0x00#8) :: s.core.cont })
  ∧ (∀ s : State, s.cfg.brakeDelay = true → exec .brake s = .next
      { s with
        core.cont :=
          .op (.write 0xFD#8 0x10#8) :: .op .delayByte :: .op (.write 0xFD#8 0x00#8) :: .op .delayByte
            :: s.core.cont })

/-- spec/42_step_sequencer.md R148, R149: RESET_TO_IDLE writes the three fields in one step, and nothing else; FAIL_STEP
calls it and does nothing else. -/
def Obligations.ResetToIdleClears : Prop :=
  (∀ s : State, exec .resetToIdle s = .next { s with core.steps := 0, core.phase := .p1, core.armed := false })
  ∧ (∀ s : State, exec .failStep s = .next { s with core.cont := .op .resetToIdle :: s.core.cont })

/-! ### Button -/

/-- spec/43_button_handler.md R160 to R162: an edge in Idle arms, at steps 0 and phase 1, and starts the timer; an edge
while Stepping is a no-op. -/
def Obligations.ButtonArmsWhenIdle : Prop :=
  (∀ s : State, s.core.armed = false → exec .button s = .next { s with core.cont := .op .arm :: s.core.cont })
  ∧ (∀ s : State, s.core.armed = true → exec .button s = .next
      { s with core.cont := .op .buttonIgnored :: s.core.cont })
  ∧ (∀ s : State, s.core.armed = false → exec .arm s = .next
      { s with
        core.steps := 0
        core.phase := .p1
        core.armed := true
        core.cont := .op (.timerProgram s.cfg.stepTicks .stepAdvance) :: s.core.cont })
  ∧ (∀ s : State, exec .buttonIgnored s = .next s)

/-! ### Peripheral operations -/

/-- spec/44_peripheral_ops.md R170: the reload word is `2^32 − n` modulo 2^32, it loads the counter at once, and OVF is
not changed; the purpose is written nowhere. -/
def Obligations.TimerProgramLoads : Prop :=
  (∀ (n : Word) (p : Purpose) (s : State), ∃ v : Word, v.toNat = (2 ^ 32 - n.toNat) % 2 ^ 32
    ∧ exec (.timerProgram n p) s = .next
        { s with core.trace := s.core.trace ++ [.wr .timerReload v], timer.reload := v, timer.count := v })
  ∧ (∀ (v : Word) (s : State), exec (.reloadWord v) s = .next
        { s with core.trace := s.core.trace ++ [.wr .timerReload v], timer.reload := v, timer.count := v })

/-- spec/44_peripheral_ops.md R171, R172, R173: OVF is cleared by the parameter's word and the counter is not changed;
LATCH is cleared by the one-hot word of the button line; the acknowledgement opens the gate. -/
def Obligations.StatusClearsAndAck : Prop :=
  ∀ s : State,
    (exec .timerStatusClear s = .next
      { s with core.trace := s.core.trace ++ [.wr .timerStatclr s.cfg.timerClrValue], timer.ovf := false })
    ∧ (exec .timerClr s = .next
      { s with core.trace := s.core.trace ++ [.wr .timerStatclr s.cfg.timerClrValue], timer.ovf := false })
    ∧ (exec .gpioStatusClear s = .next
        { s with
          core.trace := s.core.trace ++ [.wr .gpioStatclr (1#32 <<< s.cfg.buttonLine.val)]
          gpio.latch := false })
    ∧ (exec .gpioClr s = .next
        { s with
          core.trace := s.core.trace ++ [.wr .gpioStatclr (1#32 <<< s.cfg.buttonLine.val)]
          gpio.latch := false })
    ∧ exec .newirqAck s = .next
        { s with core.trace := s.core.trace ++ [.wr .intcNewirq s.cfg.newirqAckValue], intc.gate := true }

/-- spec/44_peripheral_ops.md R174: one event in the abstract mode; in Timer mode also the ByteSpacing program, the hold
and the clear. While OVF is clear the hold gives the core no step, so its move changes nothing (spec/00_scope.md R11);
once OVF is set, the word read shows it in bit `OVF_BIT` and ends the hold. That this one read is in the trace is the
model's choice (log 25), and so is what RAW_OVF does with a word whose bit is clear, which its row excludes, and outside
the Timer mode, where the row does not exist (log 36). -/
def Obligations.DelayByteModes : Prop :=
  (∀ s : State, s.cfg.byteDelayMode = .abstract →
      exec .delayByte s = .next { s with core.trace := s.core.trace ++ [.delay] })
  ∧ (∀ s : State, s.cfg.byteDelayMode = .timer →
      exec .delayByte s = .next
        { s with
          core.trace := s.core.trace ++ [.delay]
          core.cont :=
            .op (.timerProgram s.cfg.byteTicks .byteSpacing) :: .rawLoop :: .op .timerStatusClear :: s.core.cont })
  ∧ (∀ (s : State) (k : List Item), s.cfg.byteDelayMode = .timer → s.env.script = [] →
      s.core.cont = .rawLoop :: k → s.timer.ovf = false → step s = .next s)
  ∧ (∀ (s : State) (k : List Item), s.cfg.byteDelayMode = .timer → s.env.script = [] →
      s.core.cont = .rawLoop :: k → s.timer.ovf = true → ∃ v : Word, v.getLsbD s.cfg.ovfBit = true ∧ step s = .next
        { s with
          core.trace := s.core.trace ++ [.rd .timerRawstat v]
          core.cont := .op (.rawOvf v) :: k })
  ∧ (∀ (v : Word) (s : State), v.getLsbD s.cfg.ovfBit = true → exec (.rawOvf v) s = .next s)
  ∧ (∀ (v : Word) (s : State), v.getLsbD s.cfg.ovfBit = false →
      exec (.rawOvf v) s = .next { s with core.cont := .rawLoop :: s.core.cont })

/-- spec/44_peripheral_ops.md R175, R176: the I2C boot words and the edge-detect word, each stored in its register, and
the order of I2C_INIT. That CON_INIT leaves BB, the queue and a transaction in progress as they are is the model's
inference (log 34). -/
def Obligations.BootConfiguresI2cAndGpio : Prop :=
  ∀ s : State,
    (exec .i2cInit s = .next { s with core.cont := .op .i2cOa :: .op .i2cSa :: .op .conInit :: s.core.cont })
    ∧ (exec .i2cOa s = .next
        { s with core.trace := s.core.trace ++ [.wr .i2cOa s.cfg.ownAddr], i2c.oa := s.cfg.ownAddr })
    ∧ (exec .i2cSa s = .next
        { s with core.trace := s.core.trace ++ [.wr .i2cSa s.cfg.slaveAddr], i2c.sa := s.cfg.slaveAddr })
    ∧ (exec .conInit s = .next
        { s with core.trace := s.core.trace ++ [.wr .i2cCon 0x00008000#32], i2c.con := 0x00008000#32 })
    ∧ (exec .gpioEdgeConfig s = .next
        { s with
          core.trace := s.core.trace ++ [.wr .gpioFalldet (1#32 <<< s.cfg.buttonLine.val)]
          gpio.falldet := 1#32 <<< s.cfg.buttonLine.val })
    ∧ exec .gpioFalldet s = .next
        { s with
          core.trace := s.core.trace ++ [.wr .gpioFalldet (1#32 <<< s.cfg.buttonLine.val)]
          gpio.falldet := 1#32 <<< s.cfg.buttonLine.val }

/-- spec/44_peripheral_ops.md R177, R178 and spec/60_exceptions.md R216: the controller is reset and the two sources
are enabled; TIMER.RESET leaves the counter and the reload value unspecified (some two words, whatever they are), OVF
and its enable clear; TIMER.OVFIE enables the interrupt. That INTC.RESET clears the enables and opens the gate is the
model's inference (log 11), and that a word equal to both mask values enables both sources is its choice (log 31). -/
def Obligations.BootConfiguresIntcAndTimer : Prop :=
  (∀ s : State,
    (exec .intcConfig s = .next
        { s with
          core.cont :=
            .op .intcReset :: .op (.intcMasken s.cfg.maskenTimerValue) :: .op (.intcMasken s.cfg.maskenGpioValue)
              :: s.core.cont })
    ∧ (exec .intcReset s = .next
        { s with
          core.trace := s.core.trace ++ [.wr .intcReset s.cfg.intcResetValue]
          intc.enTimer := false
          intc.enGpio := false
          intc.gate := true })
    ∧ (∀ v : Word, v = s.cfg.maskenTimerValue ∨ v = s.cfg.maskenGpioValue → exec (.intcMasken v) s = .next
        { s with
          core.trace := s.core.trace ++ [.wr .intcMasken v]
          intc.enTimer := s.intc.enTimer || decide (v = s.cfg.maskenTimerValue)
          intc.enGpio := s.intc.enGpio || decide (v = s.cfg.maskenGpioValue) }))
  ∧ (∀ s : State, exec .timerConfig s = .next { s with core.cont := .op .timerReset :: .op .timerOvfie :: s.core.cont })
  ∧ (∀ s : State, ∃ x y : Word, exec .timerReset s = .next
      { s with
        core.trace := s.core.trace ++ [.wr .timerReset s.cfg.timerResetValue]
        timer.count := x
        timer.reload := y
        timer.ovf := false
        timer.ovfie := false
        fresh := s.fresh + 2 })
  ∧ (∀ s : State, exec .timerOvfie s = .next
      { s with core.trace := s.core.trace ++ [.wr .timerOvfie s.cfg.ovfieValue], timer.ovfie := true })

/-- spec/44_peripheral_ops.md R179: one `write` per pair of PWM_SETUP_SEQ, in order, each followed by the place where
boot goes on after an error. -/
def Obligations.PwmSetupSendsSequence : Prop :=
  ∀ s : State, exec .pwmSetup s = .next
    { s with
      core.cont := s.cfg.pwmSetupSeq.flatMap (fun p => [.op (.write p.1 p.2), .catchBoot]) ++ s.core.cont }

/-- spec/44_peripheral_ops.md R180, R181: the end of boot unmasks and enters Main; masking changes the mask alone. -/
def Obligations.InterruptMaskOperations : Prop :=
  (∀ s : State, s.core.ctx ≠ .handler → exec .enableInterrupts s = .next
      { s with core.imask := false, core.ctx := .main })
  ∧ (∀ s : State, exec .disableInterrupts s = .next { s with core.imask := true })

/-- RegWrite and RegRead are MemWrite and MemRead at the register's address (spec/00_scope.md R11), under the address
constraint of spec/10_state.md R39; a read or write that is not one aligned word is refused (spec/20_memory.md R62). -/
def Obligations.RegisterAccessIsMemoryAccess : Prop :=
  (∀ (s : State) (r : Reg) (v : Word), s.cfg.addrs.ok s.cfg.byteDelayMode = true →
      (r = .timerRawstat → s.cfg.byteDelayMode = .timer) →
      memWrite (s.cfg.addrs.addr r) 4 v s = regWrite r v s
      ∧ ∀ k : Word → State → Out, memRead (s.cfg.addrs.addr r) 4 k s = regRead r k s)
  ∧ (∀ (s : State) (addr size : Nat) (v : Word), size ≠ 4 ∨ addr % 4 ≠ 0 →
      memWrite addr size v s = .refused (.misaligned addr size))
  ∧ (∀ (s : State) (addr size : Nat) (k : Word → State → Out), size ≠ 4 ∨ addr % 4 ≠ 0 →
      memRead addr size k s = .refused (.misaligned addr size))

/-! ### Reset, boot and whole handlers -/

/-- spec/10_state.md R46: the values the spec gives the core state after reset. -/
def Obligations.ResetCoreState : Prop :=
  State.reset.core.armed = false ∧ State.reset.core.phase.toNat = 1 ∧ State.reset.core.steps = 0
  ∧ State.reset.core.saved = none ∧ State.reset.core.imask = true ∧ State.reset.core.trace = []
  ∧ State.reset.core.faults = [] ∧ State.reset.core.unknownIrqCount = 0#32
  ∧ State.reset.core.ctx = .boot

/-- spec/70_reset_and_hazards.md R231, R233 to R235: from the core state after reset, whatever the peripheral registers
hold and whatever setup pairs PWM_SETUP sends, boot writes its words in order and reaches clean entry but for the trace
and LATCH, which boot leaves as it was. Boot writes neither `extraPend` nor, before its own transactions, BB and the
transmit queue, so these are premises. The schedule is the eager bus (log 3), without NACK detection. -/
def Obligations.BootReachesCleanEntry : Prop :=
  ∀ s : State, s.core = State.reset.core → s.env.script = eagerBoot s.cfg → s.cfg.nackDetect = false →
    s.intc.extraPend = false → s.i2c.stat.getLsbD 12 = false → s.i2c.txq = [] → s.i2c.txn = none →
    ∃ t, Host.Core.run Sys2Proof.core (eagerBoot s.cfg).length s = .next t
      ∧ AfterBoot t ∧ t.timer.ovf = false ∧ t.gpio.latch = s.gpio.latch
      ∧ t.core.trace =
        [.wr .i2cOa s.cfg.ownAddr, .wr .i2cSa s.cfg.slaveAddr, .wr .i2cCon 0x00008000#32]
        ++ s.cfg.pwmSetupSeq.flatMap (writeEvents s.i2c.stat)
        ++ [.wr .gpioFalldet (1#32 <<< s.cfg.buttonLine.val), .wr .timerReset s.cfg.timerResetValue,
          .wr .timerOvfie s.cfg.ovfieValue, .wr .intcReset s.cfg.intcResetValue,
          .wr .intcMasken s.cfg.maskenTimerValue, .wr .intcMasken s.cfg.maskenGpioValue]

/-- A button edge handled from Idle, whole (spec/40_dispatcher.md R100, R103, spec/43_button_handler.md R160, R161): six
events, the sequencer armed at phase 1 and steps 0, LATCH clear, the gate open, and Main again. -/
def Obligations.ButtonHandlerArms : Prop :=
  ∀ s : State, AtMain s → s.env.script = [] → s.core.imask = false → s.intc.gate = true → s.core.armed = false →
    s.gpio.latch = true → s.intc.enGpio = true → s.pending .timer = false → s.pending .extra = false →
    s.cfg.srcWordGpio.getLsbD 2 = true →
    ∃ (t : State) (v : Word), v.toNat = (2 ^ 32 - s.cfg.stepTicks.toNat) % 2 ^ 32
      ∧ Host.Core.run Sys2Proof.core 11 s = .next t
      ∧ AtMain t ∧ t.core.imask = false ∧ t.core.saved = none ∧ t.intc.gate = true
      ∧ t.core.armed = true ∧ t.core.phase = .p1 ∧ t.core.steps = 0
      ∧ t.gpio.latch = false ∧ t.timer.count = v ∧ t.timer.ovf = s.timer.ovf ∧ t.i2c = s.i2c
      ∧ t.core.trace = s.core.trace ++
        [.entry, .rd .intcActive s.cfg.srcWordGpio, .wr .gpioStatclr (1#32 <<< s.cfg.buttonLine.val),
          .wr .timerReload v, .wr .intcNewirq s.cfg.newirqAckValue, .ret]

/-- A stepping tick, whole, under the eager-bus schedule and the spec's default configuration
(spec/42_step_sequencer.md R142, R143, R150, spec/40_dispatcher.md R100, R104): the 42 events of one step in order,
whatever the phase table holds, the phase advanced, the step counted, the timer restarted, and Main again. With NextTick
this holds of the step to 200 too, and leaves Main at 200 steps (10_state.md R26 (b)). -/
def Obligations.SteppingTickWhole : Prop :=
  ∀ s : State, AtMain s → s.env.script = eagerTick → s.core.imask = false → s.intc.gate = true →
    s.core.armed = true → (s.core.steps < 199 ∨ s.cfg.brakeTick = .nextTick ∧ s.core.steps < 200) →
    s.cfg.unknownIrqPolicy = .twoWay → s.cfg.nackDetect = false →
    s.cfg.byteDelayMode = .abstract → s.timer.ovf = true → s.timer.ovfie = true → s.intc.enTimer = true →
    s.pending .gpio = false → s.pending .extra = false → s.cfg.srcWordTimer.getLsbD 2 = false →
    s.i2c.stat.getLsbD 12 = false → s.i2c.txq = [] → s.i2c.txn = none →
    ∃ (t : State) (v : Word), v.toNat = (2 ^ 32 - s.cfg.stepTicks.toNat) % 2 ^ 32
      ∧ Host.Core.run Sys2Proof.core 76 s = .next t
      ∧ AtMain t ∧ t.core.imask = false ∧ t.core.saved = none ∧ t.intc.gate = true
      ∧ t.core.armed = true ∧ t.core.phase.toNat = s.core.phase.toNat % 4 + 1 ∧ t.core.steps = s.core.steps + 1
      ∧ t.timer.ovf = false ∧ t.timer.count = v
      ∧ t.i2c.txq = [] ∧ t.i2c.txn = none ∧ t.i2c.stat = s.i2c.stat
      ∧ t.core.trace = s.core.trace ++
        [.entry, .rd .intcActive s.cfg.srcWordTimer, .wr .timerStatclr s.cfg.timerClrValue]
        ++ (s.cfg.phaseTable.entry s.core.phase).pairs.flatMap (phaseWriteEvents s.i2c.stat)
        ++ [.wr .timerReload v, .wr .intcNewirq s.cfg.newirqAckValue, .ret]

/-! ### Environment agents -/

/-- spec/60_exceptions.md R214: one Timer step of a configured timer. -/
def Obligations.TimerTickCounts : Prop :=
  ∀ s : State, s.timer.ovfie = true →
    (s.timer.count ≠ 0xFFFFFFFF#32 → agentMove .timer s = { s with timer.count := s.timer.count + 1#32 })
    ∧ (s.timer.count = 0xFFFFFFFF#32 → s.cfg.timerAutoreload = true →
        agentMove .timer s = { s with timer.ovf := true, timer.count := s.timer.reload })
    ∧ (s.timer.count = 0xFFFFFFFF#32 → s.cfg.timerAutoreload = false →
        agentMove .timer s = { s with timer.ovf := true, timer.count := 0#32 })

/-- spec/60_exceptions.md R215: after the reload for a delay of n ticks the overflow comes at exactly the n-th Timer step,
and for n = 0 at the 2^32-th. -/
def Obligations.ReloadGivesDelay : Prop :=
  ∀ (s : State) (n : Word), s.timer.ovfie = true → s.timer.ovf = false →
    s.timer.count.toNat = (2 ^ 32 - n.toNat) % 2 ^ 32 →
    (timerSteps (if n.toNat = 0 then 2 ^ 32 else n.toNat) s).timer.ovf = true
    ∧ ∀ k < (if n.toNat = 0 then 2 ^ 32 else n.toNat), (timerSteps k s).timer.ovf = false

/-- spec/60_exceptions.md R218: an edge sets LATCH once edge detection is configured for the button line, and has no
effect before. That it is configured when the stored FALLDET word (10_state.md R33) has the line's bit is the model's
reading (log 28). -/
def Obligations.ButtonEdgeLatches : Prop :=
  ∀ s : State,
    (s.gpio.falldet.getLsbD s.cfg.buttonLine = true → agentMove .press s = { s with gpio.latch := true })
    ∧ (s.gpio.falldet.getLsbD s.cfg.buttonLine = false → agentMove .press s = s)

/-- spec/60_exceptions.md R219, R224: no step drops, reorders or duplicates a byte of the transmit queue. A step that
writes no data register leaves the queue alone, and the bytes already sent too, unless the step starts a transaction or
is the STOP of one whose bytes are all sent; a step that writes it queues that byte last and sends nothing; and a shift
sends the head and takes it off. Then the bus side's own moves, exactly: shift, finish and busy. That finish leaves BB
and the other status bits as they were is the model's inference (log 17), and that a move has no effect where R219 does
not allow it is its choice (log 27). -/
def Obligations.QueueKeepsOrder : Prop :=
  (∀ s t : State, step s = .next t →
    (t.i2c.txq = s.i2c.txq
      ∧ (∃ es, t.core.trace = s.core.trace ++ es ∧ ∀ v, .wr .i2cData v ∉ es)
      ∧ (t.i2c.txn = s.i2c.txn
        ∨ (∃ n, t.i2c.txn = some { count := n, sent := [] }
          ∧ t.core.trace = s.core.trace ++ [.wr .i2cCon 0x00008603#32])
        ∨ (∃ x, s.i2c.txn = some x ∧ x.count ≤ x.sent.length ∧ t.i2c.txn = none)))
    ∨ (∃ b, t.i2c.txq = s.i2c.txq ++ [b] ∧ t.i2c.txn = s.i2c.txn
      ∧ (t.core.trace = s.core.trace ++ [.wr .i2cData (BitVec.setWidth 32 b)]
        ∨ ∃ a d, t.core.trace = s.core.trace ++ [.wr .i2cData (BitVec.setWidth 32 b), .xact a d]))
    ∨ (∃ b x, s.i2c.txq = b :: t.i2c.txq ∧ s.i2c.txn = some x ∧ x.sent.length < x.count
      ∧ t.i2c.txn = some { x with sent := x.sent ++ [b] } ∧ t.core.trace = s.core.trace))
  ∧ (∀ (s : State) (x : Txn) (b : Byte) (q : List Byte),
      s.i2c.txn = some x → s.i2c.txq = b :: q → x.sent.length < x.count →
      agentMove .busShift s = { s with i2c.txq := q, i2c.txn := some { x with sent := x.sent ++ [b] } })
  ∧ (∀ s : State, (s.i2c.txq = [] ∨ ∀ x, s.i2c.txn = some x → x.count ≤ x.sent.length) → agentMove .busShift s = s)
  ∧ (∀ (s : State) (x : Txn) (nack : Bool), s.i2c.txn = some x → x.count ≤ x.sent.length →
      s.cfg.nackDetect = false → agentMove (.busFinish nack) s = { s with i2c.txn := none })
  ∧ (∀ (s : State) (x : Txn) (nack : Bool), s.i2c.txn = some x → x.count ≤ x.sent.length →
      s.cfg.nackDetect = true → s.cfg.doneBit ≠ s.cfg.nackBit →
      ∃ v : Word, v.getLsbD s.cfg.doneBit = true ∧ v.getLsbD s.cfg.nackBit = nack
        ∧ (∀ i : Fin 32, i ≠ s.cfg.doneBit → i ≠ s.cfg.nackBit → v.getLsbD i = s.i2c.stat.getLsbD i)
        ∧ agentMove (.busFinish nack) s = { s with i2c.txn := none, i2c.stat := v })
  ∧ (∀ (s : State) (nack : Bool), (∀ x, s.i2c.txn = some x → x.sent.length < x.count) →
      agentMove (.busFinish nack) s = s)
  ∧ (∀ (s : State) (bb : Bool), s.i2c.txn = none →
      ∃ v : Word, v.getLsbD 12 = bb ∧ (∀ i : Fin 32, i ≠ 12 → v.getLsbD i = s.i2c.stat.getLsbD i)
        ∧ agentMove (.busLine bb) s = { s with i2c.stat := v })
  ∧ (∀ (s : State) (bb : Bool), s.i2c.txn ≠ none → agentMove (.busLine bb) s = s)

/-- spec/60_exceptions.md R224: no environment agent touches the core state or the parameters, and no step clears
`extraPend`. -/
def Obligations.EnvironmentRights : Prop :=
  (∀ (m : Move) (s : State), (agentMove m s).core = s.core ∧ (agentMove m s).cfg = s.cfg)
  ∧ (∀ s t : State, step s = .next t → s.intc.extraPend = true → t.intc.extraPend = true)

/-! ### Invariants every step keeps -/

/-- Every step keeps 10_state.md R24, R26 (b), (c) and (d): the step count stays within 200, with SameTick a count of 200
is on its way to Idle, the phase is `(steps mod 4) + 1` (one ahead between ADVANCE_PHASE and COUNT_STEP), and Idle means
no step counted, with the shape of the program these rest on. -/
def Obligations.SequencerCoherentKept : Prop :=
  ∀ s t : State, SequencerCoherent s → step s = .next t → SequencerCoherent t

/-- What the sequencer invariant says at a main-context boundary: 10_state.md R26 (b), (c) and (d), with a state in which
NextTick has 200 steps there; and at the end of a commanded run (70_reset_and_hazards.md R252): its observation begins
with the ENTRY of its delivery, and it ends at the phase and step count of Idle. -/
def Obligations.SequencerAtMain : Prop :=
  (∀ s : State, SequencerCoherent s → AtMain s →
    s.core.phase.toNat = s.core.steps % 4 + 1 ∧ s.core.steps ≤ 200
    ∧ (s.cfg.brakeTick = .sameTick → s.core.steps ≠ 200)
    ∧ (s.core.armed = false → s.core.steps = 0 ∧ s.core.phase = .p1))
  ∧ (∃ s : State, SequencerCoherent s ∧ AtMain s ∧ s.cfg.brakeTick = .nextTick ∧ s.core.armed = true
    ∧ s.core.steps = 200)
  ∧ (∀ b a t : State, SequencerCoherent b → CommandedRun b a t →
    b.core.ctx = .main ∧ a.core.armed = false ∧ AtMain t ∧ t.core.armed = false ∧ t.core.steps = 0
    ∧ t.core.phase = .p1 ∧ ∃ es, observation b t = .entry :: es)

/-- 10_state.md R26 (a): the step count changes to a nonzero value only while the sequencer is armed. -/
def Obligations.StepsAdvanceOnlyArmed : Prop :=
  ∀ s t : State, SequencerCoherent s → step s = .next t → t.core.steps ≠ s.core.steps → t.core.steps ≠ 0 →
    s.core.armed = true ∧ t.core.steps = s.core.steps + 1

/-- Every step keeps the saved context, the mask and the context together: nothing is saved in Main and boot, and a
handler runs masked with an unmasked main loop saved (10_state.md R29, 60_exceptions.md R212, 70 R232). -/
def Obligations.ContextCoherentKept : Prop :=
  ∀ s t : State, ContextCoherent s → step s = .next t → ContextCoherent t

/-- A handler is entered only by a delivery that R207 allows, from Main, and left only by EXC_RETURN to Main
(60_exceptions.md R207, R212, R220). -/
def Obligations.HandlerEntryAndExit : Prop :=
  (∀ s t : State, step s = .next t → s.core.ctx ≠ .handler → t.core.ctx = .handler →
      s.core.ctx = .main ∧ s.core.imask = false ∧ s.intc.gate = true
      ∧ (s.pending .timer = true ∨ s.pending .gpio = true ∨ s.pending .extra = true)
      ∧ t.intc.gate = false ∧ t.core.trace = s.core.trace ++ [.entry])
  ∧ (∀ s t : State, step s = .next t → s.core.ctx = .handler → t.core.ctx ≠ .handler →
      t.core.ctx = .main ∧ t.core.saved = none ∧ t.core.trace = s.core.trace ++ [.ret])

/-- The gate closes only at a delivery, and opens only at the acknowledgement or the controller's reset
(60_exceptions.md R207, R208). -/
def Obligations.GateRules : Prop :=
  ∀ s t : State, step s = .next t →
    (s.intc.gate = true → t.intc.gate = false → t.core.trace = s.core.trace ++ [.entry])
    ∧ (s.intc.gate = false → t.intc.gate = true →
        t.core.trace = s.core.trace ++ [.wr .intcNewirq s.cfg.newirqAckValue]
        ∨ t.core.trace = s.core.trace ++ [.wr .intcReset s.cfg.intcResetValue])

/-- Every step keeps BB set while a transaction is in progress (60_exceptions.md R219, 70 R239). -/
def Obligations.BusyWhileSendingKept : Prop :=
  ∀ s t : State, BusyWhileSending s → step s = .next t → BusyWhileSending t

/-- In Faithful every step keeps the fault log empty and the counter at 0 (10_state.md R44). -/
def Obligations.FaultFreeKept : Prop :=
  ∀ s t : State, FaultFree s → step s = .next t → FaultFree t

/-- Every step keeps every word of the write trace one that its register's rows list, and under parameters that meet the
spec's constraints every transaction handed over one of the XACT rows, so that the refusal mark stays clear
(30_encoding.md R93, 60_exceptions.md R200). -/
def Obligations.WritesListedKept : Prop :=
  (∀ s t : State, WritesListed s → step s = .next t → WritesListed t)
  ∧ (∀ s t : State, TransactionsListed s → step s = .next t → TransactionsListed t)

/-- The reset state meets the six invariants, and its parameters every constraint the spec puts on the OPEN rows,
whatever the free constants are (log 2). FaultFree rests on the defaults of 00_scope.md R8. -/
def Obligations.ResetMeetsInvariants : Prop :=
  SequencerCoherent State.reset ∧ ContextCoherent State.reset ∧ BusyWhileSending State.reset
  ∧ FaultFree State.reset ∧ WritesListed State.reset ∧ TransactionsListed State.reset
  ∧ State.reset.cfg.ok = true

/-- The trace and the fault log only grow: a step appends at most two events and at most one fault record, with its
event, and no step writes the parameters (00_scope.md R11, 10_state.md R20, R44, 60_exceptions.md R211). -/
def Obligations.HistoryOnlyGrows : Prop :=
  ∀ s t : State, step s = .next t →
    t.cfg = s.cfg
    ∧ (∃ es, t.core.trace = s.core.trace ++ es ∧ es.length ≤ 2)
    ∧ (t.core.faults = s.core.faults
      ∨ ∃ f i, t.core.faults = s.core.faults ++ [(f, i)] ∧ t.core.trace = s.core.trace ++ [.fault f i])

/-- Only ARM arms, with the counters reset, and only RESET_TO_IDLE disarms (10_state.md R27, 43_button_handler.md
R163). -/
def Obligations.OnlyArmArms : Prop :=
  ∀ (i : Instr) (s t : State), exec i s = .next t →
    (s.core.armed = false → t.core.armed = true → i = .arm ∧ t.core.steps = 0 ∧ t.core.phase = .p1)
    ∧ (s.core.armed = true → t.core.armed = false → i = .resetToIdle)
end

