-- ==== Sys2Proof/Laws/State.lean ====
section
/-! SUPPORT. What the plain state updates of the model do to each field: one lemma per field, true by `rfl`. -/

namespace Sys2Proof.Machine

@[simp] theorem emit_cfg (e : Event) (s : State) : (emit e s).cfg = s.cfg := rfl
@[simp] theorem emit_i2c (e : Event) (s : State) : (emit e s).i2c = s.i2c := rfl
@[simp] theorem emit_gpio (e : Event) (s : State) : (emit e s).gpio = s.gpio := rfl
@[simp] theorem emit_intc (e : Event) (s : State) : (emit e s).intc = s.intc := rfl
@[simp] theorem emit_timer (e : Event) (s : State) : (emit e s).timer = s.timer := rfl
@[simp] theorem emit_env (e : Event) (s : State) : (emit e s).env = s.env := rfl
@[simp] theorem emit_fresh (e : Event) (s : State) : (emit e s).fresh = s.fresh := rfl
@[simp] theorem emit_armed (e : Event) (s : State) : (emit e s).core.armed = s.core.armed := rfl
@[simp] theorem emit_phase (e : Event) (s : State) : (emit e s).core.phase = s.core.phase := rfl
@[simp] theorem emit_steps (e : Event) (s : State) : (emit e s).core.steps = s.core.steps := rfl
@[simp] theorem emit_ctx (e : Event) (s : State) : (emit e s).core.ctx = s.core.ctx := rfl
@[simp] theorem emit_saved (e : Event) (s : State) : (emit e s).core.saved = s.core.saved := rfl
@[simp] theorem emit_imask (e : Event) (s : State) : (emit e s).core.imask = s.core.imask := rfl
@[simp] theorem emit_trace (e : Event) (s : State) : (emit e s).core.trace = s.core.trace ++ [e] := rfl
@[simp] theorem emit_faults (e : Event) (s : State) : (emit e s).core.faults = s.core.faults := rfl
@[simp] theorem emit_unknownIrqCount (e : Event) (s : State) : (emit e s).core.unknownIrqCount = s.core.unknownIrqCount := rfl
@[simp] theorem emit_cont (e : Event) (s : State) : (emit e s).core.cont = s.core.cont := rfl
@[simp] theorem emit_pc (e : Event) (s : State) : (emit e s).core.pc = s.core.pc := rfl
@[simp] theorem emit_status (e : Event) (s : State) : (emit e s).core.status = s.core.status := rfl
@[simp] theorem emit_locals (e : Event) (s : State) : (emit e s).core.locals = s.core.locals := rfl

@[simp] theorem setCont_cfg (k : List Item) (s : State) : (setCont k s).cfg = s.cfg := rfl
@[simp] theorem setCont_i2c (k : List Item) (s : State) : (setCont k s).i2c = s.i2c := rfl
@[simp] theorem setCont_gpio (k : List Item) (s : State) : (setCont k s).gpio = s.gpio := rfl
@[simp] theorem setCont_intc (k : List Item) (s : State) : (setCont k s).intc = s.intc := rfl
@[simp] theorem setCont_timer (k : List Item) (s : State) : (setCont k s).timer = s.timer := rfl
@[simp] theorem setCont_env (k : List Item) (s : State) : (setCont k s).env = s.env := rfl
@[simp] theorem setCont_fresh (k : List Item) (s : State) : (setCont k s).fresh = s.fresh := rfl
@[simp] theorem setCont_armed (k : List Item) (s : State) : (setCont k s).core.armed = s.core.armed := rfl
@[simp] theorem setCont_phase (k : List Item) (s : State) : (setCont k s).core.phase = s.core.phase := rfl
@[simp] theorem setCont_steps (k : List Item) (s : State) : (setCont k s).core.steps = s.core.steps := rfl
@[simp] theorem setCont_ctx (k : List Item) (s : State) : (setCont k s).core.ctx = s.core.ctx := rfl
@[simp] theorem setCont_saved (k : List Item) (s : State) : (setCont k s).core.saved = s.core.saved := rfl
@[simp] theorem setCont_imask (k : List Item) (s : State) : (setCont k s).core.imask = s.core.imask := rfl
@[simp] theorem setCont_trace (k : List Item) (s : State) : (setCont k s).core.trace = s.core.trace := rfl
@[simp] theorem setCont_faults (k : List Item) (s : State) : (setCont k s).core.faults = s.core.faults := rfl
@[simp] theorem setCont_unknownIrqCount (k : List Item) (s : State) : (setCont k s).core.unknownIrqCount = s.core.unknownIrqCount := rfl
@[simp] theorem setCont_cont (k : List Item) (s : State) : (setCont k s).core.cont = k := rfl
@[simp] theorem setCont_pc (k : List Item) (s : State) : (setCont k s).core.pc = s.core.pc := rfl
@[simp] theorem setCont_status (k : List Item) (s : State) : (setCont k s).core.status = s.core.status := rfl
@[simp] theorem setCont_locals (k : List Item) (s : State) : (setCont k s).core.locals = s.core.locals := rfl

@[simp] theorem call_cfg (is : List Item) (s : State) : (call is s).cfg = s.cfg := rfl
@[simp] theorem call_i2c (is : List Item) (s : State) : (call is s).i2c = s.i2c := rfl
@[simp] theorem call_gpio (is : List Item) (s : State) : (call is s).gpio = s.gpio := rfl
@[simp] theorem call_intc (is : List Item) (s : State) : (call is s).intc = s.intc := rfl
@[simp] theorem call_timer (is : List Item) (s : State) : (call is s).timer = s.timer := rfl
@[simp] theorem call_env (is : List Item) (s : State) : (call is s).env = s.env := rfl
@[simp] theorem call_fresh (is : List Item) (s : State) : (call is s).fresh = s.fresh := rfl
@[simp] theorem call_armed (is : List Item) (s : State) : (call is s).core.armed = s.core.armed := rfl
@[simp] theorem call_phase (is : List Item) (s : State) : (call is s).core.phase = s.core.phase := rfl
@[simp] theorem call_steps (is : List Item) (s : State) : (call is s).core.steps = s.core.steps := rfl
@[simp] theorem call_ctx (is : List Item) (s : State) : (call is s).core.ctx = s.core.ctx := rfl
@[simp] theorem call_saved (is : List Item) (s : State) : (call is s).core.saved = s.core.saved := rfl
@[simp] theorem call_imask (is : List Item) (s : State) : (call is s).core.imask = s.core.imask := rfl
@[simp] theorem call_trace (is : List Item) (s : State) : (call is s).core.trace = s.core.trace := rfl
@[simp] theorem call_faults (is : List Item) (s : State) : (call is s).core.faults = s.core.faults := rfl
@[simp] theorem call_unknownIrqCount (is : List Item) (s : State) : (call is s).core.unknownIrqCount = s.core.unknownIrqCount := rfl
@[simp] theorem call_cont (is : List Item) (s : State) : (call is s).core.cont = is ++ s.core.cont := rfl
@[simp] theorem call_pc (is : List Item) (s : State) : (call is s).core.pc = s.core.pc := rfl
@[simp] theorem call_status (is : List Item) (s : State) : (call is s).core.status = s.core.status := rfl
@[simp] theorem call_locals (is : List Item) (s : State) : (call is s).core.locals = s.core.locals := rfl

@[simp] theorem startPoll_cfg (a : Byte) (s : State) : (startPoll a s).cfg = s.cfg := rfl
@[simp] theorem startPoll_i2c (a : Byte) (s : State) : (startPoll a s).i2c = s.i2c := rfl
@[simp] theorem startPoll_gpio (a : Byte) (s : State) : (startPoll a s).gpio = s.gpio := rfl
@[simp] theorem startPoll_intc (a : Byte) (s : State) : (startPoll a s).intc = s.intc := rfl
@[simp] theorem startPoll_timer (a : Byte) (s : State) : (startPoll a s).timer = s.timer := rfl
@[simp] theorem startPoll_env (a : Byte) (s : State) : (startPoll a s).env = s.env := rfl
@[simp] theorem startPoll_fresh (a : Byte) (s : State) : (startPoll a s).fresh = s.fresh := rfl
@[simp] theorem startPoll_armed (a : Byte) (s : State) : (startPoll a s).core.armed = s.core.armed := rfl
@[simp] theorem startPoll_phase (a : Byte) (s : State) : (startPoll a s).core.phase = s.core.phase := rfl
@[simp] theorem startPoll_steps (a : Byte) (s : State) : (startPoll a s).core.steps = s.core.steps := rfl
@[simp] theorem startPoll_ctx (a : Byte) (s : State) : (startPoll a s).core.ctx = s.core.ctx := rfl
@[simp] theorem startPoll_saved (a : Byte) (s : State) : (startPoll a s).core.saved = s.core.saved := rfl
@[simp] theorem startPoll_imask (a : Byte) (s : State) : (startPoll a s).core.imask = s.core.imask := rfl
@[simp] theorem startPoll_trace (a : Byte) (s : State) : (startPoll a s).core.trace = s.core.trace := rfl
@[simp] theorem startPoll_faults (a : Byte) (s : State) : (startPoll a s).core.faults = s.core.faults := rfl
@[simp] theorem startPoll_unknownIrqCount (a : Byte) (s : State) : (startPoll a s).core.unknownIrqCount = s.core.unknownIrqCount := rfl
@[simp] theorem startPoll_cont (a : Byte) (s : State) : (startPoll a s).core.cont = s.core.cont := rfl
@[simp] theorem startPoll_pc (a : Byte) (s : State) : (startPoll a s).core.pc = s.core.pc := rfl
@[simp] theorem startPoll_status (a : Byte) (s : State) : (startPoll a s).core.status = s.core.status := rfl
@[simp] theorem startPoll_locals (a : Byte) (s : State) : (startPoll a s).core.locals = { s.core.locals with pollAddr := a, busyReads := 0 } := rfl

@[simp] theorem setScript_cfg (ms : List Move) (s : State) : (setScript ms s).cfg = s.cfg := rfl
@[simp] theorem setScript_i2c (ms : List Move) (s : State) : (setScript ms s).i2c = s.i2c := rfl
@[simp] theorem setScript_gpio (ms : List Move) (s : State) : (setScript ms s).gpio = s.gpio := rfl
@[simp] theorem setScript_intc (ms : List Move) (s : State) : (setScript ms s).intc = s.intc := rfl
@[simp] theorem setScript_timer (ms : List Move) (s : State) : (setScript ms s).timer = s.timer := rfl
@[simp] theorem setScript_env (ms : List Move) (s : State) : (setScript ms s).env = { s.env with script := ms } := rfl
@[simp] theorem setScript_fresh (ms : List Move) (s : State) : (setScript ms s).fresh = s.fresh := rfl
@[simp] theorem setScript_armed (ms : List Move) (s : State) : (setScript ms s).core.armed = s.core.armed := rfl
@[simp] theorem setScript_phase (ms : List Move) (s : State) : (setScript ms s).core.phase = s.core.phase := rfl
@[simp] theorem setScript_steps (ms : List Move) (s : State) : (setScript ms s).core.steps = s.core.steps := rfl
@[simp] theorem setScript_ctx (ms : List Move) (s : State) : (setScript ms s).core.ctx = s.core.ctx := rfl
@[simp] theorem setScript_saved (ms : List Move) (s : State) : (setScript ms s).core.saved = s.core.saved := rfl
@[simp] theorem setScript_imask (ms : List Move) (s : State) : (setScript ms s).core.imask = s.core.imask := rfl
@[simp] theorem setScript_trace (ms : List Move) (s : State) : (setScript ms s).core.trace = s.core.trace := rfl
@[simp] theorem setScript_faults (ms : List Move) (s : State) : (setScript ms s).core.faults = s.core.faults := rfl
@[simp] theorem setScript_unknownIrqCount (ms : List Move) (s : State) : (setScript ms s).core.unknownIrqCount = s.core.unknownIrqCount := rfl
@[simp] theorem setScript_cont (ms : List Move) (s : State) : (setScript ms s).core.cont = s.core.cont := rfl
@[simp] theorem setScript_pc (ms : List Move) (s : State) : (setScript ms s).core.pc = s.core.pc := rfl
@[simp] theorem setScript_status (ms : List Move) (s : State) : (setScript ms s).core.status = s.core.status := rfl
@[simp] theorem setScript_locals (ms : List Move) (s : State) : (setScript ms s).core.locals = s.core.locals := rfl

end Sys2Proof.Machine
end

