-- ==== Sys2Proof/Laws/Ops.lean ====
section
/-! SUPPORT. One lemma per shared operation saying everything it can answer, and what the register writes and the
environment's moves leave alone. -/

namespace Sys2Proof.Machine

/-! ### Register words -/

theorem setBit_bit_self (v : Word) (b : Bool) : (setBit v Config.bbBit b).bit Config.bbBit = b := by
  cases b <;> simp [setBit, Word.bit, Word.oneHot, Config.bbBit]

theorem lowByte_dataWord (b : Byte) : lowByte (dataWord b) = b := by
  simp [lowByte, dataWord]

theorem dataRow_dataWord (b : Byte) : dataRow (dataWord b) = some (.dataByte b) := by
  simp [dataRow, lowByte_dataWord]

theorem accepts_conXfer (c : Params) : accepts c .i2cCon Config.conXferWord = true := rfl
theorem accepts_conInit (c : Params) : accepts c .i2cCon Config.conInitWord = true := rfl
theorem accepts_cnt2 (c : Params) : accepts c .i2cCnt Config.cnt2Word = true := rfl
theorem accepts_ieXrdy (c : Params) : accepts c .i2cIe Config.ieXrdyWord = true := rfl
theorem accepts_reload (c : Params) (v : Word) : accepts c .timerReload v = true := rfl

theorem accepts_data (c : Params) (b : Byte) : accepts c .i2cData (dataWord b) = true := by
  simp [accepts, writable, regRow, dataRow_dataWord]

theorem accepts_gpioClr (c : Params) : accepts c .gpioStatclr (buttonWord c) = true := by
  simp [accepts, writable, regRow, wholeRow]

theorem accepts_gpioFalldet (c : Params) : accepts c .gpioFalldet (buttonWord c) = true := by
  simp [accepts, writable, regRow, wholeRow]

theorem accepts_timerClr (c : Params) : accepts c .timerStatclr c.timerClrValue = true := by
  simp [accepts, writable, regRow, wholeRow]

theorem accepts_newirqAck (c : Params) : accepts c .intcNewirq c.newirqAckValue = true := by
  simp [accepts, writable, regRow, wholeRow]

theorem accepts_oa (c : Params) : accepts c .i2cOa c.ownAddr = true := by
  simp [accepts, writable, regRow, wholeRow]

theorem accepts_sa (c : Params) : accepts c .i2cSa c.slaveAddr = true := by
  simp [accepts, writable, regRow, wholeRow]

theorem accepts_intcReset (c : Params) : accepts c .intcReset c.intcResetValue = true := by
  simp [accepts, writable, regRow, wholeRow]

theorem accepts_timerReset (c : Params) : accepts c .timerReset c.timerResetValue = true := by
  simp [accepts, writable, regRow, wholeRow]

theorem accepts_timerOvfie (c : Params) : accepts c .timerOvfie c.ovfieValue = true := by
  simp [accepts, writable, regRow, wholeRow]

theorem accepts_intcMasken (c : Params) (v : Word) :
    accepts c .intcMasken v = true ↔ v = c.maskenTimerValue ∨ v = c.maskenGpioValue := by
  simp only [accepts, writable, regRow, Bool.true_and]
  split <;> simp_all

/-! ### RegWrite and RegRead -/

theorem regWrite_next {r : Reg} {v : Word} {s t : State} :
    regWrite r v s = .next t ↔ accepts s.cfg r v = true ∧ t = written r v s := by
  unfold regWrite
  split
  · next h => exact ⟨fun e => ⟨h, by cases e; rfl⟩, fun e => by rw [e.2]⟩
  · next h => exact ⟨fun e => (by cases e), fun e => absurd e.1 h⟩

theorem regWrite_accepted {r : Reg} {v : Word} {s : State} (h : accepts s.cfg r v = true) :
    regWrite r v s = .next (written r v s) := by
  simp [regWrite, h]

theorem writeCon_core (v : Word) (s : State) : (writeCon v s).core = s.core := by
  unfold writeCon; split <;> rfl

/-- A register write changes nothing of the core state but the trace. -/
theorem written_core (r : Reg) (v : Word) (s : State) :
    (written r v s).core = { s.core with trace := s.core.trace ++ [.wr r v] } := by
  cases r <;> simp [written, deviceEffect, writeCon_core, emit]

theorem written_cfg (r : Reg) (v : Word) (s : State) : (written r v s).cfg = s.cfg := by
  cases r <;> simp [written, deviceEffect, writeCon, emit]
  split <;> rfl

theorem written_env (r : Reg) (v : Word) (s : State) : (written r v s).env = s.env := by
  cases r <;> simp [written, deviceEffect, writeCon, emit]
  split <;> rfl

theorem regRead_next {r : Reg} {k : Word → State → Out} {s t : State} :
    regRead r k s = .next t ↔ ∃ v, s.readable r = some v ∧ k v (emit (.rd r v) s) = .next t := by
  unfold regRead
  split <;> simp_all

/-! ### The I2C operations -/

theorem pollRead_eq (s : State) :
    pollRead s = .next (call [.op (statRow s.i2c.stat)] (emit (.rd .i2cStat s.i2c.stat) s)) := rfl

/-- A busy read leads to BusTimeout about to be raised, or to one more read. -/
theorem pollAgain_next {s t : State} (h : pollAgain s = .next t) :
    let u : State := { s with core.locals.busyReads := s.core.locals.busyReads + 1 }
    (budgetSpent s.cfg (s.core.locals.busyReads + 1) = true
      ∧ t = call [.raise .busTimeout (addrInfo s.core.locals.pollAddr)] u)
    ∨ (budgetSpent s.cfg (s.core.locals.busyReads + 1) = false
      ∧ t = call [.op (statRow s.i2c.stat)] (emit (.rd .i2cStat s.i2c.stat) u)) := by
  unfold pollAgain at h
  simp only at h
  split at h
  · next hb => exact .inl ⟨hb, by simpa using h.symm⟩
  · next hb => exact .inr ⟨by simpa using hb, by simpa [pollRead_eq] using h.symm⟩

theorem putByte_eq (b : Byte) (s : State) :
    putByte b s = .next (handOver (written .i2cData (dataWord b) s)) := by
  simp [putByte, regWrite_accepted (accepts_data s.cfg b)]

/-- The hand-over: the XACT event if this byte is the second of a `write`, and nothing otherwise. -/
theorem handOver_cases (s : State) :
    (∃ a d k, s.core.cont = .xactMark a d :: k ∧ handOver s = emit (.xact a d) (setCont k s))
    ∨ handOver s = s := by
  unfold handOver
  split
  · next a d k h => exact .inl ⟨a, d, k, h, rfl⟩
  · exact .inr rfl

theorem startWrite_next {a d : Byte} {s t : State} :
    startWrite a d s = .next t ↔
      writeInProgress s = false ∧ ¬(s.core.ctx = .main ∧ s.core.imask = false)
      ∧ t = call (writeBody s.cfg a d) s := by
  unfold startWrite
  split
  · next h => exact ⟨fun e => (by cases e), fun e => by simp [e.1] at h⟩
  · next h =>
    split
    · next hm => exact ⟨fun e => (by cases e), fun e => absurd hm e.2.1⟩
    · next hm => exact ⟨fun e => ⟨by simpa using h, hm, by cases e; rfl⟩, fun e => by rw [e.2.2]⟩

/-- COMPLETE_CHECK's test: a fault about to be raised, the end, or one more read. -/
theorem checkTest_next {v : Word} {s t : State} (h : checkTest v s = .next t) :
    let u : State := { s with core.locals.busyReads := s.core.locals.busyReads + 1 }
    (t = call [.raise .transactionFailed (addrInfo s.core.locals.pollAddr)] s)
    ∨ t = s
    ∨ t = call [.raise .busTimeout (addrInfo s.core.locals.pollAddr)] u
    ∨ t = call [.checkLoop] u := by
  unfold checkTest at h
  simp only at h
  split at h
  · exact .inl (by simpa using h.symm)
  · split at h
    · exact .inr (.inl (by simpa using h.symm))
    · split at h
      · exact .inr (.inr (.inl (by simpa using h.symm)))
      · exact .inr (.inr (.inr (by simpa using h.symm)))

theorem checkRead_next {s t : State} (h : checkRead s = .next t) :
    s.cfg.nackDetect = true ∧ checkTest s.i2c.stat (emit (.rd .i2cStat s.i2c.stat) s) = .next t := by
  unfold checkRead at h
  split at h
  · next hn => exact ⟨hn, h⟩
  · cases h

/-- The hold: the state as it is while OVF is clear, and the read that ends it. -/
theorem rawRead_next {s t : State} (h : rawRead s = .next t) :
    (s.timer.ovf = false ∧ t = call [.rawLoop] s)
    ∨ t = call [.op (.rawOvf s.rawWord)] (emit (.rd .timerRawstat s.rawWord) s) := by
  unfold rawRead at h
  split at h
  · next ho => exact .inl ⟨ho.2, by simpa using h.symm⟩
  · rw [regRead_next] at h
    obtain ⟨v, hv, ht⟩ := h
    simp only [State.readable] at hv
    split at hv
    · cases hv
      exact .inr (by simpa using ht.symm)
    · cases hv

/-- The word read once OVF is set shows it. -/
theorem rawWord_bit (s : State) : s.rawWord.bit s.cfg.ovfBit = s.timer.ovf := by
  have h := s.cfg.ovfBit.isLt
  unfold State.rawWord Word.oneHot Word.bit
  cases s.timer.ovf <;> simp [h]

theorem sendRow_next {i : Instr} {a d : Byte} {s t : State} :
    sendRow i a d s = .next t ↔ i.WellFormed s.cfg = true ∧ t = call [.op (.write a d)] s := by
  unfold sendRow
  split
  · next h => exact ⟨fun e => ⟨h, by cases e; rfl⟩, fun e => by rw [e.2]⟩
  · next h => exact ⟨fun e => (by cases e), fun e => absurd e.1 h⟩

/-! ### Traps -/

theorem trap_next {s t : State} :
    trap s = .next t ↔ s.core.ctx ≠ .handler ∧ s.deliverable = true ∧ t = takeTrap s := by
  unfold trap
  split
  · next h => exact ⟨fun e => (by cases e), fun e => absurd h e.1⟩
  · next h =>
    split
    · next hd => exact ⟨fun e => ⟨h, hd, by cases e; rfl⟩, fun e => by rw [e.2.2]⟩
    · next hd => exact ⟨fun e => (by cases e), fun e => absurd e.2.1 hd⟩

theorem trapReturn_next {s t : State} (h : trapReturn s = .next t) :
    ∃ c, s.core.saved = some c
      ∧ t = emit .ret
        { s with
          core.pc := c.pc
          core.status := c.status
          core.imask := c.imask
          core.saved := none
          core.ctx := .main } := by
  unfold trapReturn at h
  split at h
  · cases h
  · next c hc => exact ⟨c, hc, by simpa using h.symm⟩

/-- Raising a fault appends the record and its event, and changes nothing else but the program. -/
theorem raiseFault_eq (f : FaultCode) (info : Word) (s : State) :
    ∃ k, raiseFault f info s =
      { s with
        core.faults := s.core.faults ++ [(f, info)]
        core.trace := s.core.trace ++ [.fault f info]
        core.cont := k } := by
  unfold raiseFault
  cases f <;> exact ⟨_, rfl⟩

/-! ### The environment -/

/-- No environment agent touches the core state, the parameters or the moves to come. -/
theorem agentMove_core (m : Move) (s : State) :
    (agentMove m s).core = s.core ∧ (agentMove m s).cfg = s.cfg
      ∧ (agentMove m s).env.script = s.env.script ∧ (agentMove m s).fresh = s.fresh := by
  cases m <;>
    simp only [agentMove, timerTick, buttonEdge, raiseExtra, busShift, busFinish, busLine, statBits, rawBits, prefer] <;>
    (repeat' split) <;> first | exact ⟨rfl, rfl, rfl, rfl⟩ | simp

/-- The step: an agent's move, or the core's. -/
theorem step_cases {s t : State} (h : step s = .next t) :
    (∃ m ms, s.env.script = m :: ms ∧ m ≠ .core ∧ t = agentMove m (setScript ms s))
    ∨ (∃ ms, (s.env.script = [] ∧ ms = [] ∨ s.env.script = .core :: ms) ∧ coreTurn (setScript ms s) = .next t) := by
  unfold step turn at h
  split at h
  · next hs =>
    refine .inr ⟨[], .inl ⟨hs, rfl⟩, ?_⟩
    have : setScript [] s = s := by
      obtain ⟨_, _, _, _, _, _, ⟨sc, _⟩, _⟩ := s
      cases hs
      rfl
    rwa [this]
  · next ms hs => exact .inr ⟨ms, .inr hs, h⟩
  · next m ms hm hs => exact .inl ⟨m, ms, hs, by rintro rfl; exact hm rfl, by simpa using h.symm⟩

end Sys2Proof.Machine
end

