-- ==== Sys2Proof/Laws/Exec.lean ====
section
/-! SUPPORT. What an instruction can do, said once: the three shapes of a meaning (a call, a register write, a change of
the core's own registers), and what each shape leaves alone. -/

namespace Sys2Proof.Machine

/-- Nothing but the program, the trace and the locals differs. -/
def OnlyProgram (s t : State) : Prop :=
  t = { s with
    core.cont := t.core.cont
    core.trace := t.core.trace
    core.locals := t.core.locals }

theorem onlyProgram_call (is : List Item) (s : State) : OnlyProgram s (call is s) := rfl
theorem onlyProgram_refl (s : State) : OnlyProgram s s := rfl

/-- A meaning that only calls: it puts `is` in front of the program, and at most reads a register. -/
def Calls (is : List Item) (s t : State) : Prop :=
  OnlyProgram s t ∧ t.core.cont = is ++ s.core.cont
    ∧ (t.core.trace = s.core.trace ∨ (∃ r v, t.core.trace = s.core.trace ++ [.rd r v])
      ∨ t.core.trace = s.core.trace ++ [.delay])

/-- A meaning that writes one register: the write, and the hand-over if it is the data register's. -/
def Writes (s t : State) : Prop :=
  ∃ r v, accepts s.cfg r v = true
    ∧ (t = written r v s ∨ (r = .i2cData ∧ t = handOver (written r v s)))

/-- The statements a calling meaning may put in front of the program: no pair half and no fault but those its own rule
names. -/
def plainItem : Item → Bool
  | .op .advancePhase => false
  | .op .countStep => false
  | .raise _ _ => false
  | _ => true

theorem calls_call {is : List Item} {s t : State} (h : Host.Outcome.next (call is s) = (.next t : Out)) :
    Calls is s t := by
  cases h; exact ⟨rfl, rfl, .inl rfl⟩

theorem writes_regWrite {r : Reg} {v : Word} {s t : State} (h : regWrite r v s = .next t) : Writes s t := by
  rw [regWrite_next] at h
  exact ⟨r, v, h.1, .inl h.2⟩

theorem writes_putByte {b : Byte} {s t : State} (h : putByte b s = .next t) : Writes s t := by
  rw [putByte_eq] at h
  cases h
  exact ⟨_, _, accepts_data _ _, .inr ⟨rfl, rfl⟩⟩

theorem emitPairs_plain (ps : List (Byte × Byte)) : ∀ x ∈ emitPairs ps, plainItem x = true := by
  induction ps with
  | nil => simp [emitPairs]
  | cons p ps ih => simp only [emitPairs, List.forall_mem_cons]; exact ⟨rfl, rfl, ih⟩

theorem setupPairs_plain (ps : List (Byte × Byte)) : ∀ x ∈ setupPairs ps, plainItem x = true := by
  induction ps with
  | nil => simp [setupPairs]
  | cons p ps ih => simp only [setupPairs, List.forall_mem_cons]; exact ⟨rfl, rfl, ih⟩

theorem writeBody_plain (c : Params) (a d : Byte) : ∀ x ∈ writeBody c a d, plainItem x = true := by
  have h : (writeBody c a d).all plainItem = true := by
    unfold writeBody
    cases c.nackDetect <;> rfl
  exact List.all_eq_true.mp h

theorem writeBody_noReset (c : Params) (a d : Byte) : ∀ x ∈ writeBody c a d, mayReset x = false := by
  have h : (writeBody c a d).all (fun x => !mayReset x) = true := by
    unfold writeBody
    cases c.nackDetect <;> rfl
  intro x hx
  simpa using List.all_eq_true.mp h x hx

theorem emitPairs_noReset (ps : List (Byte × Byte)) : ∀ x ∈ emitPairs ps, mayReset x = false := by
  induction ps with
  | nil => simp [emitPairs]
  | cons p ps ih => simp only [emitPairs, List.forall_mem_cons]; exact ⟨rfl, rfl, ih⟩

theorem setupPairs_noReset (ps : List (Byte × Byte)) : ∀ x ∈ setupPairs ps, mayReset x = false := by
  induction ps with
  | nil => simp [setupPairs]
  | cons p ps ih => simp only [setupPairs, List.forall_mem_cons]; exact ⟨rfl, rfl, ih⟩

/-- Everything an instruction can do when it answers a next state. -/
inductive Effect (s : State) : Instr → State → Prop where
  /-- It calls `is`, which holds no half of the pair and no fault, and nothing that may reset unless it may itself. -/
  | calls (i : Instr) (is : List Item) (t : State) (h : Calls is s t) (hp : ∀ x ∈ is, plainItem x = true)
      (hr : mayReset (.op i) = true ∨ ∀ x ∈ is, mayReset x = false) (hi : isStepping (.op i) = false) : Effect s i t
  /-- It writes one register. -/
  | writes (i : Instr) (t : State) (h : Writes s t) (hi : isStepping (.op i) = false) : Effect s i t
  /-- A status test that found a fault: the fault is about to be raised. -/
  | faults (i : Instr) (f : FaultCode) (w : Word) (t : State) (h : Calls [.raise f w] s t)
      (hc : s.cfg.pollBudget ≠ none ∨ s.cfg.nackDetect = true) (hi : isStepping (.op i) = false) : Effect s i t
  | tickStep (ha : s.core.armed = true) (hs : s.core.steps < Config.stepLimit) :
      Effect s .tickStep
        (call [.op (.emitPhase s.core.phase), .op .advancePhase, .op .countStep, .stepTail, .catchFail] s)
  | advancePhase : Effect s .advancePhase { s with core.phase := nextPhase s.core.phase }
  | countStep (hs : s.core.steps < Config.stepLimit) :
      Effect s .countStep { s with core.steps := s.core.steps + 1 }
  | resetToIdle : Effect s .resetToIdle { s with core.steps := 0, core.phase := .p1, core.armed := false }
  | arm (ha : s.core.armed = false) :
      Effect s .arm (call [.op (.timerProgram s.cfg.stepTicks .stepAdvance)]
        { s with core.steps := 0, core.phase := .p1, core.armed := true })
  | excReturn (c : Saved) (hc : s.core.saved = some c) :
      Effect s .excReturn (emit .ret
        { s with
          core.pc := c.pc
          core.status := c.status
          core.imask := c.imask
          core.saved := none
          core.ctx := .main })
  | trapEntry (hc : s.core.ctx ≠ .handler) (hd : s.deliverable = true) : Effect s .trapEntry (takeTrap s)
  | unknown (w : Word) (hf : s.cfg.unknownIrqPolicy = .flag) :
      Effect s (.dispatchUnknown w) (call [.raise .unknownInterrupt w]
        { s with core.unknownIrqCount := s.core.unknownIrqCount + 1#32 })
  | enable (hc : s.core.ctx ≠ .handler) :
      Effect s .enableInterrupts { s with core.imask := false, core.ctx := .main }
  | disable : Effect s .disableInterrupts { s with core.imask := true }

theorem noReset_of_all {is : List Item} (h : is.all (fun x => !mayReset x) = true) :
    ∀ x ∈ is, mayReset x = false :=
  fun x hx => by simpa using List.all_eq_true.mp h x hx

theorem plain_of_all {is : List Item} (h : is.all plainItem = true) : ∀ x ∈ is, plainItem x = true :=
  List.all_eq_true.mp h

theorem Effect.of_call {s t : State} {i : Instr} {is : List Item}
    (h : Host.Outcome.next (call is s) = (.next t : Out)) (hp : is.all plainItem = true)
    (hr : (mayReset (.op i) || is.all (fun x => !mayReset x)) = true) (hi : isStepping (.op i) = false) :
    Effect s i t := by
  refine .calls i is t (calls_call h) (List.all_eq_true.mp hp) ?_ hi
  rw [Bool.or_eq_true] at hr
  exact hr.imp id noReset_of_all

theorem Effect.of_row {s t : State} (i : Instr) (a d : Byte) (h : sendRow i a d s = .next t)
    (hi : isStepping (.op i) = false) : Effect s i t := by
  obtain ⟨_, rfl⟩ := sendRow_next.mp h
  exact .of_call (is := [.op (.write a d)]) rfl rfl (by cases mayReset (.op i) <;> rfl) hi

theorem Effect.of_same {s t : State} {i : Instr} (h : Host.Outcome.next s = (.next t : Out))
    (hi : isStepping (.op i) = false) : Effect s i t := by
  cases h
  exact .calls i [] s ⟨rfl, rfl, .inl rfl⟩ (by simp) (.inr (by simp)) hi

theorem statRow_item (v : Word) :
    plainItem (.op (statRow v)) = true ∧ mayReset (.op (statRow v)) = false := by
  unfold statRow
  split <;> exact ⟨rfl, rfl⟩

theorem srcRow_plain (c : Params) (w : Word) : plainItem (.op (srcRow c w)) = true := by
  unfold srcRow
  split <;> rfl

theorem Effect.of_pollAgain {s t : State} {i : Instr} (h : pollAgain s = .next t)
    (hi : isStepping (.op i) = false) : Effect s i t := by
  rcases pollAgain_next h with ⟨hb, rfl⟩ | ⟨_, rfl⟩
  · refine .faults i _ _ _ ⟨rfl, rfl, .inl rfl⟩ (.inl ?_) hi
    intro hn
    simp [budgetSpent, hn] at hb
  · refine .calls i [.op (statRow s.i2c.stat)] _ ⟨rfl, rfl, .inr (.inl ⟨_, _, rfl⟩)⟩ ?_ (.inr ?_) hi
    · simpa using (statRow_item _).1
    · simpa using (statRow_item _).2

/-- One read of COMPLETE_CHECK, from a state that differs from `s` in the locals only. -/
theorem Effect.of_checkRead {s t : State} {i : Instr} (l : Locals)
    (h : checkRead { s with core.locals := l } = .next t) (hi : isStepping (.op i) = false) : Effect s i t := by
  obtain ⟨hn, h⟩ := checkRead_next h
  have hc : s.cfg.pollBudget ≠ none ∨ s.cfg.nackDetect = true := .inr hn
  rcases checkTest_next h with rfl | rfl | rfl | rfl
  · exact .faults i _ _ _ ⟨rfl, rfl, .inr (.inl ⟨_, _, rfl⟩)⟩ hc hi
  · exact .calls i [] _ ⟨rfl, rfl, .inr (.inl ⟨_, _, rfl⟩)⟩ (by simp) (.inr (by simp)) hi
  · exact .faults i _ _ _ ⟨rfl, rfl, .inr (.inl ⟨_, _, rfl⟩)⟩ hc hi
  · exact .calls i [.checkLoop] _ ⟨rfl, rfl, .inr (.inl ⟨_, _, rfl⟩)⟩ (plain_of_all rfl)
      (.inr (noReset_of_all rfl)) hi

/-- The inversion of `exec`: the effect of every instruction, by its shape. -/
theorem exec_effect {i : Instr} {s t : State} (h : exec i s = .next t) : Effect s i t := by
  cases i with
  | dispatchTimer w => exact .of_call h rfl rfl rfl
  | dispatchGpio w => exact .of_call h rfl rfl rfl
  | dispatchUnknown w =>
    simp only [exec, execDispatchUnknown] at h
    split at h
    · next hf => cases h; exact .unknown w hf
    · cases h
  | busy v => exact .of_pollAgain h rfl
  | free v => exact .of_same h rfl
  | conXfer => exact .writes _ _ (writes_regWrite (r := .i2cCon) (v := Config.conXferWord) h) rfl
  | conInit => exact .writes _ _ (writes_regWrite (r := .i2cCon) (v := Config.conInitWord) h) rfl
  | cnt2 => exact .writes _ _ (writes_regWrite (r := .i2cCnt) (v := Config.cnt2Word) h) rfl
  | ieXrdy => exact .writes _ _ (writes_regWrite (r := .i2cIe) (v := Config.ieXrdyWord) h) rfl
  | dataByte b => exact .writes _ _ (writes_putByte h) rfl
  | reloadWord v => exact .writes _ _ (writes_regWrite (r := .timerReload) (v := v) h) rfl
  | gpioClr => exact .writes _ _ (writes_regWrite h) rfl
  | timerClr => exact .writes _ _ (writes_regWrite h) rfl
  | newirqAck => exact .writes _ _ (writes_regWrite h) rfl
  | i2cOa => exact .writes _ _ (writes_regWrite h) rfl
  | i2cSa => exact .writes _ _ (writes_regWrite h) rfl
  | gpioFalldet => exact .writes _ _ (writes_regWrite h) rfl
  | intcReset => exact .writes _ _ (writes_regWrite h) rfl
  | intcMasken v => exact .writes _ _ (writes_regWrite h) rfl
  | timerReset => exact .writes _ _ (writes_regWrite h) rfl
  | timerOvfie => exact .writes _ _ (writes_regWrite h) rfl
  | rawOvf v =>
    simp only [exec, execRawOvf] at h
    split at h
    · exact .of_same h rfl
    · exact .of_call h rfl rfl rfl
  | phaseCh17 d => exact .of_row (.phaseCh17 d) _ _ h rfl
  | phaseCh13 d => exact .of_row (.phaseCh13 d) _ _ h rfl
  | phaseCh1b d => exact .of_row (.phaseCh1b d) _ _ h rfl
  | phaseCh1f d => exact .of_row (.phaseCh1f d) _ _ h rfl
  | brakeAllOff => exact .of_row .brakeAllOff _ _ h rfl
  | brakeRelease => exact .of_row .brakeRelease _ _ h rfl
  | setupMode1 d => exact .of_row (.setupMode1 d) _ _ h rfl
  | setupPrescale d => exact .of_row (.setupPrescale d) _ _ h rfl
  | setupMode2 d => exact .of_row (.setupMode2 d) _ _ h rfl
  | setupCh0f d => exact .of_row (.setupCh0f d) _ _ h rfl
  | setupCh23 d => exact .of_row (.setupCh23 d) _ _ h rfl
  | dispatch =>
    simp only [exec, execDispatch] at h
    split at h
    · cases h
    · exact .of_call h rfl rfl rfl
  | readSrc =>
    cases h
    exact .calls _ [] _ ⟨rfl, rfl, .inr (.inl ⟨_, _, rfl⟩)⟩ (by simp) (.inr (by simp)) rfl
  | decodeSrc =>
    cases h
    refine .calls _ [.op (srcRow s.cfg s.core.locals.srcWord)] _ ⟨rfl, rfl, .inl rfl⟩ ?_ (.inl rfl) rfl
    simpa using srcRow_plain _ _
  | excReturn =>
    obtain ⟨c, hc, rfl⟩ := trapReturn_next h
    exact .excReturn c hc
  | write a d =>
    obtain ⟨_, _, rfl⟩ := startWrite_next.mp h
    exact .calls _ _ _ ⟨rfl, rfl, .inl rfl⟩ (writeBody_plain _ _ _) (.inr (writeBody_noReset _ _ _)) rfl
  | pollBusy a =>
    cases h
    refine .calls _ [.op (statRow s.i2c.stat)] _ ⟨rfl, rfl, .inr (.inl ⟨_, _, rfl⟩)⟩ ?_ (.inr ?_) rfl
    · simpa using (statRow_item _).1
    · simpa using (statRow_item _).2
  | setCount => exact .writes _ _ (writes_regWrite (r := .i2cCnt) (v := Config.cnt2Word) h) rfl
  | xrdyEnable => exact .writes _ _ (writes_regWrite (r := .i2cIe) (v := Config.ieXrdyWord) h) rfl
  | dataWrite b => exact .writes _ _ (writes_putByte h) rfl
  | completeCheck a => exact .of_checkRead _ h rfl
  | tick =>
    simp only [exec, execTick] at h
    split at h
    · exact .of_call h rfl rfl rfl
    · split at h
      · exact .of_call h rfl rfl rfl
      · exact .of_call h rfl rfl rfl
  | tickIdle => exact .of_same h rfl
  | tickStep =>
    simp only [exec, execTickStep] at h
    split at h
    · next hs => cases h; exact .tickStep hs.1 hs.2
    · cases h
  | emitPhase p =>
    cases h
    exact .calls _ _ _ ⟨rfl, rfl, .inl rfl⟩ (emitPairs_plain _) (.inr (emitPairs_noReset _)) rfl
  | advancePhase => cases h; exact .advancePhase
  | countStep =>
    simp only [exec, execCountStep] at h
    split at h
    · next hs => cases h; exact .countStep hs
    · cases h
  | tickBrake => exact .of_call h rfl rfl rfl
  | brake =>
    simp only [exec, execBrake] at h
    split at h
    · exact .of_call h rfl rfl rfl
    · exact .of_call h rfl rfl rfl
  | resetToIdle => cases h; exact .resetToIdle
  | failStep => exact .of_call h rfl rfl rfl
  | button =>
    simp only [exec, execButton] at h
    split at h
    · exact .of_call h rfl rfl rfl
    · exact .of_call h rfl rfl rfl
  | arm =>
    simp only [exec, execArm] at h
    split at h
    · next ha => cases h; exact .arm ha
    · cases h
  | buttonIgnored => exact .of_same h rfl
  | timerProgram n p => exact .writes _ _ (writes_regWrite (r := .timerReload) (v := reloadFor n) h) rfl
  | timerStatusClear => exact .writes _ _ (writes_regWrite h) rfl
  | gpioStatusClear => exact .writes _ _ (writes_regWrite h) rfl
  | delayByte =>
    simp only [exec, execDelayByte] at h
    split at h
    · cases h
      exact .calls _ [] _ ⟨rfl, rfl, .inr (.inr rfl)⟩ (by simp) (.inr (by simp)) rfl
    · cases h
      exact .calls _ [.op (.timerProgram s.cfg.byteTicks .byteSpacing), .rawLoop, .op .timerStatusClear] _
        ⟨rfl, rfl, .inr (.inr rfl)⟩ (plain_of_all rfl) (.inr (noReset_of_all rfl)) rfl
  | i2cInit => exact .of_call h rfl rfl rfl
  | gpioEdgeConfig => exact .writes _ _ (writes_regWrite h) rfl
  | intcConfig => exact .of_call h rfl rfl rfl
  | timerConfig => exact .of_call h rfl rfl rfl
  | pwmSetup =>
    cases h
    exact .calls _ _ _ ⟨rfl, rfl, .inl rfl⟩ (setupPairs_plain _) (.inr (setupPairs_noReset _)) rfl
  | enableInterrupts =>
    simp only [exec, execEnableInterrupts] at h
    split at h
    · cases h
    · next hc => cases h; exact .enable hc
  | disableInterrupts => cases h; exact .disable
  | trapEntry =>
    obtain ⟨hc, hd, rfl⟩ := trap_next.mp h
    exact .trapEntry hc hd

/-- Everything a step can do: an agent's move, a mark passed, one of the places inside an operation, the idle loop, or
the instruction at the head of the program. -/
theorem coreTurn_cases {s t : State} (h : coreTurn s = .next t) :
    (∃ i k, s.core.cont = .op i :: k ∧ exec i (setCont k s) = .next t)
    ∨ (∃ f w k, s.core.cont = .raise f w :: k ∧ t = raiseFault f w (setCont k s))
    ∨ (∃ k, s.core.cont = .stepTail :: k ∧ t = afterCount (setCont k s))
    ∨ (∃ k, s.core.cont = .checkLoop :: k ∧ checkRead (setCont k s) = .next t)
    ∨ (∃ k, s.core.cont = .rawLoop :: k ∧ rawRead (setCont k s) = .next t)
    ∨ (∃ m k, s.core.cont = m :: k
        ∧ (m = .writeEnd ∨ m = .catchFail ∨ m = .catchBoot ∨ ∃ a d, m = .xactMark a d) ∧ t = setCont k s)
    ∨ (s.core.cont = [] ∧ s.core.ctx = .main ∧ s.deliverable = true ∧ exec .trapEntry s = .next t)
    ∨ (s.core.cont = [] ∧ s.core.ctx = .main ∧ s.deliverable = false ∧ t = s) := by
  unfold coreTurn at h
  split at h
  · next hk =>
    unfold idle at h
    split at h
    · next hm =>
      split at h
      · next hd => exact .inr (.inr (.inr (.inr (.inr (.inr (.inl ⟨hk, hm, hd, h⟩))))))
      · next hd => exact .inr (.inr (.inr (.inr (.inr (.inr (.inr ⟨hk, hm, by simpa using hd, by cases h; rfl⟩))))))
    · cases h
  · next i k hk => exact .inl ⟨i, k, hk, h⟩
  · cases h
  · next f w k hk => exact .inr (.inl ⟨f, w, k, hk, by cases h; rfl⟩)
  · next k hk => exact .inr (.inr (.inl ⟨k, hk, by cases h; rfl⟩))
  · next k hk => exact .inr (.inr (.inr (.inl ⟨k, hk, h⟩)))
  · next k hk => exact .inr (.inr (.inr (.inr (.inl ⟨k, hk, h⟩))))
  · next a d k hk =>
    exact .inr (.inr (.inr (.inr (.inr (.inl ⟨_, k, hk, .inr (.inr (.inr ⟨a, d, rfl⟩)), by cases h; rfl⟩)))))
  · next k hk => exact .inr (.inr (.inr (.inr (.inr (.inl ⟨_, k, hk, .inl rfl, by cases h; rfl⟩)))))
  · next k hk => exact .inr (.inr (.inr (.inr (.inr (.inl ⟨_, k, hk, .inr (.inl rfl), by cases h; rfl⟩)))))
  · next k hk => exact .inr (.inr (.inr (.inr (.inr (.inl ⟨_, k, hk, .inr (.inr (.inl rfl)), by cases h; rfl⟩)))))

/-- What a step leaves of the program after an error is a tail of it, behind FAIL_STEP if a tick tests for the error. -/
theorem afterErr_cases (k : List Item) :
    (∃ a b, k = a ++ .catchFail :: b ∧ afterErr k = .op .failStep :: b)
    ∨ (∃ a m b, k = a ++ m :: b ∧ (m = .catchBoot ∨ m = .writeEnd) ∧ afterErr k = b)
    ∨ afterErr k = k := by
  have hc : ∀ k k' : List Item, toCatch k = some k' →
      (∃ a b, k = a ++ .catchFail :: b ∧ k' = .op .failStep :: b) ∨ (∃ a b, k = a ++ .catchBoot :: b ∧ k' = b) := by
    intro k
    induction k with
    | nil => intro k' h; cases h
    | cons x k ih =>
      intro k' h
      unfold toCatch at h
      split at h
      · cases ‹_ = _›
      · next heq => cases heq; cases h; exact .inl ⟨[], _, rfl, rfl⟩
      · next heq => cases heq; cases h; exact .inr ⟨[], _, rfl, rfl⟩
      · next heq =>
        cases heq
        rcases ih k' h with ⟨a, b, ha, hb⟩ | ⟨a, b, ha, hb⟩
        · exact .inl ⟨x :: a, b, by rw [ha]; rfl, hb⟩
        · exact .inr ⟨x :: a, b, by rw [ha]; rfl, hb⟩
  have hw : ∀ k k' : List Item, pastWrite k = some k' → ∃ a b, k = a ++ .writeEnd :: b ∧ k' = b := by
    intro k
    induction k with
    | nil => intro k' h; cases h
    | cons x k ih =>
      intro k' h
      unfold pastWrite at h
      split at h
      · cases ‹_ = _›
      · next heq => cases heq; cases h; exact ⟨[], _, rfl, rfl⟩
      · next heq =>
        cases heq
        obtain ⟨a, b, ha, hb⟩ := ih k' h
        exact ⟨x :: a, b, by rw [ha]; rfl, hb⟩
  unfold afterErr
  cases hk : toCatch k with
  | some k' =>
    rcases hc k k' hk with ⟨a, b, ha, rfl⟩ | ⟨a, b, ha, rfl⟩
    · exact .inl ⟨a, b, ha, rfl⟩
    · exact .inr (.inl ⟨a, _, k', ha, .inl rfl, rfl⟩)
  | none =>
    cases hp : pastWrite k with
    | some k' =>
      obtain ⟨a, b, ha, rfl⟩ := hw k k' hp
      exact .inr (.inl ⟨a, _, k', ha, .inr rfl, rfl⟩)
    | none => exact .inr (.inr rfl)

end Sys2Proof.Machine
end

