-- ==== Sys2Proof/Laws/PerInstr.lean ====
section
/-! SUPPORT. The family EncodedForm: every row is encoded at the place its format names (30_encoding.md R80, R91), one
lemma per constructor. -/

namespace Sys2Proof.Laws.EncodedForm

/-- The format of the encodings read from or written to each place (30 R80). -/
def codeFormat : Code → Format
  | .xact _ _ => .xact
  | .reg .intcActive _ => .src
  | .reg .i2cStat _ => .stat
  | .reg .i2cCon _ => .con
  | .reg .i2cCnt _ => .cnt
  | .reg .i2cIe _ => .ie
  | .reg .i2cData _ => .data
  | .reg .timerReload _ => .reload
  | .reg .gpioStatclr _ => .gpioclr
  | .reg .timerStatclr _ => .paramword
  | .reg .intcNewirq _ => .paramword
  | .reg .i2cOa _ => .paramword
  | .reg .i2cSa _ => .paramword
  | .reg .gpioFalldet _ => .paramword
  | .reg .intcReset _ => .paramword
  | .reg .intcMasken _ => .paramword
  | .reg .timerReset _ => .paramword
  | .reg .timerOvfie _ => .paramword
  | .reg .timerRawstat _ => .paramword

/-- A row of format OP has no encoding, and any other row is encoded at the place its format names. -/
def Statement (i : Instr) : Prop :=
  ∀ c : Params, (encode c i).map codeFormat = if i.format = .op then none else some i.format

theorem dispatchTimer (w : Word) : Statement (.dispatchTimer w) := fun _ => rfl
theorem dispatchGpio (w : Word) : Statement (.dispatchGpio w) := fun _ => rfl
theorem dispatchUnknown (w : Word) : Statement (.dispatchUnknown w) := fun _ => rfl
theorem busy (v : Word) : Statement (.busy v) := fun _ => rfl
theorem free (v : Word) : Statement (.free v) := fun _ => rfl
theorem conXfer : Statement .conXfer := fun _ => rfl
theorem conInit : Statement .conInit := fun _ => rfl
theorem cnt2 : Statement .cnt2 := fun _ => rfl
theorem ieXrdy : Statement .ieXrdy := fun _ => rfl
theorem dataByte (b : Byte) : Statement (.dataByte b) := fun _ => rfl
theorem reloadWord (v : Word) : Statement (.reloadWord v) := fun _ => rfl
theorem gpioClr : Statement .gpioClr := fun _ => rfl
theorem timerClr : Statement .timerClr := fun _ => rfl
theorem newirqAck : Statement .newirqAck := fun _ => rfl
theorem i2cOa : Statement .i2cOa := fun _ => rfl
theorem i2cSa : Statement .i2cSa := fun _ => rfl
theorem gpioFalldet : Statement .gpioFalldet := fun _ => rfl
theorem intcReset : Statement .intcReset := fun _ => rfl
theorem intcMasken (v : Word) : Statement (.intcMasken v) := fun _ => rfl
theorem timerReset : Statement .timerReset := fun _ => rfl
theorem timerOvfie : Statement .timerOvfie := fun _ => rfl
theorem rawOvf (v : Word) : Statement (.rawOvf v) := fun _ => rfl
theorem phaseCh17 (d : Byte) : Statement (.phaseCh17 d) := fun _ => rfl
theorem phaseCh13 (d : Byte) : Statement (.phaseCh13 d) := fun _ => rfl
theorem phaseCh1b (d : Byte) : Statement (.phaseCh1b d) := fun _ => rfl
theorem phaseCh1f (d : Byte) : Statement (.phaseCh1f d) := fun _ => rfl
theorem brakeAllOff : Statement .brakeAllOff := fun _ => rfl
theorem brakeRelease : Statement .brakeRelease := fun _ => rfl
theorem setupMode1 (d : Byte) : Statement (.setupMode1 d) := fun _ => rfl
theorem setupPrescale (d : Byte) : Statement (.setupPrescale d) := fun _ => rfl
theorem setupMode2 (d : Byte) : Statement (.setupMode2 d) := fun _ => rfl
theorem setupCh0f (d : Byte) : Statement (.setupCh0f d) := fun _ => rfl
theorem setupCh23 (d : Byte) : Statement (.setupCh23 d) := fun _ => rfl
theorem dispatch : Statement .dispatch := fun _ => rfl
theorem readSrc : Statement .readSrc := fun _ => rfl
theorem decodeSrc : Statement .decodeSrc := fun _ => rfl
theorem excReturn : Statement .excReturn := fun _ => rfl
theorem write (a d : Byte) : Statement (.write a d) := fun _ => rfl
theorem pollBusy (a : Byte) : Statement (.pollBusy a) := fun _ => rfl
theorem setCount : Statement .setCount := fun _ => rfl
theorem xrdyEnable : Statement .xrdyEnable := fun _ => rfl
theorem dataWrite (b : Byte) : Statement (.dataWrite b) := fun _ => rfl
theorem completeCheck (a : Byte) : Statement (.completeCheck a) := fun _ => rfl
theorem tick : Statement .tick := fun _ => rfl
theorem tickIdle : Statement .tickIdle := fun _ => rfl
theorem tickStep : Statement .tickStep := fun _ => rfl
theorem emitPhase (p : Phase) : Statement (.emitPhase p) := fun _ => rfl
theorem advancePhase : Statement .advancePhase := fun _ => rfl
theorem countStep : Statement .countStep := fun _ => rfl
theorem tickBrake : Statement .tickBrake := fun _ => rfl
theorem brake : Statement .brake := fun _ => rfl
theorem resetToIdle : Statement .resetToIdle := fun _ => rfl
theorem failStep : Statement .failStep := fun _ => rfl
theorem button : Statement .button := fun _ => rfl
theorem arm : Statement .arm := fun _ => rfl
theorem buttonIgnored : Statement .buttonIgnored := fun _ => rfl
theorem timerProgram (n : Word) (purpose : Purpose) : Statement (.timerProgram n purpose) := fun _ => rfl
theorem timerStatusClear : Statement .timerStatusClear := fun _ => rfl
theorem gpioStatusClear : Statement .gpioStatusClear := fun _ => rfl
theorem delayByte : Statement .delayByte := fun _ => rfl
theorem i2cInit : Statement .i2cInit := fun _ => rfl
theorem gpioEdgeConfig : Statement .gpioEdgeConfig := fun _ => rfl
theorem intcConfig : Statement .intcConfig := fun _ => rfl
theorem timerConfig : Statement .timerConfig := fun _ => rfl
theorem pwmSetup : Statement .pwmSetup := fun _ => rfl
theorem enableInterrupts : Statement .enableInterrupts := fun _ => rfl
theorem disableInterrupts : Statement .disableInterrupts := fun _ => rfl
theorem trapEntry : Statement .trapEntry := fun _ => rfl

end Sys2Proof.Laws.EncodedForm
end

