-- ==== Sys2Proof/Tests/Slice0.lean ====
section
/-! SUPPORT. The model's own tests. Expected values come from spec/95_test_vectors.md (its vectors are named at each
test) or are written out from the encodings of spec/30_encoding.md; the test instance TI is that of its section 1.
The `witness_` theorems show, clause by clause, a state and operands that meet the hypotheses of each obligation. -/

namespace Sys2Proof.Tests

open Sys2Proof Sys2Proof.Machine

/-- TI of spec/95_test_vectors.md section 1; the rows TI does not name hold arbitrary test values. -/
def ti : Params where
  unknownIrqPolicy := .twoWay
  pollBudget := none
  nackDetect := false
  brakeTick := .sameTick
  brakeDelay := false
  byteDelayMode := .abstract
  extraSource := none
  timerAutoreload := false
  stepTicks := 1000#32
  byteTicks := 10#32
  tickRate := 1
  phaseTable := Config.ptX
  highVal := 0x10#8
  lowVal := 0x00#8
  slaveAddr := 0x60#32
  ownAddr := 0x01#32
  buttonLine := 28
  srcWordTimer := 0x00000010#32
  srcWordGpio := 0x00000004#32
  timerClrValue := 0x000000A1#32
  newirqAckValue := 0x000000A2#32
  intcResetValue := 0x000000A3#32
  maskenTimerValue := 0x000000A4#32
  maskenGpioValue := 0x000000A5#32
  timerResetValue := 0x000000A6#32
  ovfieValue := 0x000000A7#32
  ovfBit := 1
  nackBit := 1
  doneBit := 2
  pwmSetupSeq := []
  addrs := Config.someAddrs

/-- TI in Flag. -/
def tiFlag : Params := { ti with unknownIrqPolicy := .flag, extraSource := some 0x00000020#32 }
/-- TI with NACK detection and a poll budget. -/
def tiNack : Params := { ti with nackDetect := true, pollBudget := some 2 }
/-- TI in the Timer byte-delay mode. -/
def tiTimer : Params := { ti with byteDelayMode := .timer }

/-- CleanEntry (70 R234) under the parameters `c`. -/
def clean (c : Params) : State where
  cfg := c
  core :=
    { armed := false, phase := .p1, steps := 0, ctx := .main, saved := none, imask := false, trace := [], faults := []
      unknownIrqCount := 0#32, cont := [], pc := 0, status := 0
      locals := { srcWord := 0#32, pollAddr := 0#8, busyReads := 0 } }
  i2c :=
    { stat := 0#32, cnt := 0#32, con := 0x00008000#32, ie := 0#32, data := 0#32, oa := c.ownAddr, sa := c.slaveAddr
      txq := [], txn := none }
  gpio := { falldet := buttonWord c, latch := false }
  intc := { enTimer := true, enGpio := true, gate := true, active := 0#32, extraPend := false }
  timer := { reload := 0#32, count := 0#32, ovf := false, ovfie := true, rawOther := 0#32 }
  env := { script := [], pick := .timer }
  fresh := 0

/-- Inside a handler, before its acknowledgement, with nothing left to run. -/
def inHandler (c : Params) : State :=
  { clean c with
    core.ctx := .handler
    core.imask := true
    core.saved := some { pc := 7, status := 9, imask := false }
    intc.gate := false }

/-- A sequencer state `(armed, phase, steps)` inside a handler. -/
def seqAt (c : Params) (armed : Bool) (p : Phase) (n : Nat) : State :=
  { inHandler c with core.armed := armed, core.phase := p, core.steps := n }

/-- The outcome is a next state that passes `p`. -/
def after (o : Out) (p : State → Bool) : Bool :=
  match o with
  | .next t => p t
  | _ => false

/-- The outcome is the refusal `r`. -/
def refusedWith (o : Out) (r : Refusal) : Bool :=
  match o with
  | .refused q => q == r
  | _ => false

/-- The decoder gives this row. -/
def decodesTo (c : Params) (k : Code) (i : Instr) : Bool :=
  match decode c k with
  | .ok j => j == i
  | .error _ => false

/-- The decoder rejects. -/
def rejects (c : Params) (k : Code) : Bool :=
  match decode c k with
  | .ok _ => false
  | .error _ => true

/-! ### Well-formedness: an ill-formed term for each check -/

theorem test_wf_dispatchTimer : (Instr.dispatchTimer 0x4#32).WellFormed ti = false := by decide
theorem test_wf_dispatchTimer_flag : (Instr.dispatchTimer 0x20#32).WellFormed tiFlag = false := by decide
theorem test_wf_dispatchGpio : (Instr.dispatchGpio 0x10#32).WellFormed ti = false := by decide
theorem test_wf_dispatchGpio_flag : (Instr.dispatchGpio 0x44#32).WellFormed tiFlag = false := by decide
theorem test_wf_dispatchUnknown : (Instr.dispatchUnknown 0x20#32).WellFormed ti = false := by decide
theorem test_wf_dispatchUnknown_flag : (Instr.dispatchUnknown 0x10#32).WellFormed tiFlag = false := by decide
theorem test_wf_busy : (Instr.busy 0xFFFFEFFF#32).WellFormed ti = false := by decide
theorem test_wf_free : (Instr.free 0x00001000#32).WellFormed ti = false := by decide
theorem test_wf_intcMasken : (Instr.intcMasken 0x1#32).WellFormed ti = false := by decide
theorem test_wf_rawOvf : (Instr.rawOvf 0x1#32).WellFormed tiTimer = false := by decide
theorem test_wf_rawOvf_mode : (Instr.rawOvf 0x2#32).WellFormed ti = false := by decide
theorem test_wf_phase : [Instr.phaseCh17 0x11#8, .phaseCh13 0x11#8, .phaseCh1b 0x11#8, .phaseCh1f 0x11#8].all
    (fun i => !i.WellFormed ti) = true := by decide
theorem test_wf_completeCheck : (Instr.completeCheck 0x17#8).WellFormed ti = false := by decide
theorem test_wf_ok : [Instr.dispatchTimer 0x10#32, .dispatchGpio 0x4#32, .busy 0x1000#32, .free 0#32,
    .intcMasken 0xA4#32, .phaseCh17 0x10#8, .phaseCh1f 0x00#8, .conXfer].all (fun i => i.WellFormed ti) = true := by
  decide

/-! ### Decoding: words written out from spec/30_encoding.md, one per constructor that has a word -/

/-- R81, R91 and V-ENC-1. -/
theorem test_decode_src :
    decodesTo ti (.reg .intcActive 0b00000000000000000000000000010000#32) (.dispatchTimer 0x10#32) = true
    ∧ decodesTo ti (.reg .intcActive 0b00000000000000000000000000000100#32) (.dispatchGpio 0x04#32) = true
    ∧ decodesTo ti (.reg .intcActive 0x20#32) (.dispatchTimer 0x20#32) = true
    ∧ decodesTo ti (.reg .intcActive 0xFFFFFFFF#32) (.dispatchGpio 0xFFFFFFFF#32) = true
    ∧ decodesTo tiFlag (.reg .intcActive 0x14#32) (.dispatchUnknown 0x14#32) = true
    ∧ decodesTo tiFlag (.reg .intcActive 0x10#32) (.dispatchTimer 0x10#32) = true := by decide

/-- R82 and V-ENC-2. -/
theorem test_decode_stat :
    decodesTo ti (.reg .i2cStat 0b00000000000000000001000000000000#32) (.busy 0x1000#32) = true
    ∧ decodesTo ti (.reg .i2cStat 0x00001FFF#32) (.busy 0x1FFF#32) = true
    ∧ decodesTo ti (.reg .i2cStat 0b11111111111111111110111111111111#32) (.free 0xFFFFEFFF#32) = true := by decide

/-- R83 to R86. -/
theorem test_decode_i2c_words :
    decodesTo ti (.reg .i2cCon 0b00000000000000001000011000000011#32) .conXfer = true
    ∧ decodesTo ti (.reg .i2cCon 0b00000000000000001000000000000000#32) .conInit = true
    ∧ decodesTo ti (.reg .i2cCnt 0b00000000000000000000000000000010#32) .cnt2 = true
    ∧ decodesTo ti (.reg .i2cIe 0b00000000000000000000000000010000#32) .ieXrdy = true
    ∧ decodesTo ti (.reg .i2cData 0b00000000000000000000000000010111#32) (.dataByte 0x17#8) = true
    ∧ rejects ti (.reg .i2cCon 0x00008601#32) = true
    ∧ rejects ti (.reg .i2cData 0x00000100#32) = true := by decide

/-- R88 and V-ENC-3: the reload word of 1000 ticks; V-ENC-4: the clear word of line 28. -/
theorem test_decode_reload_and_gpio :
    decodesTo ti (.reg .timerReload 0xFFFFFC18#32) (.reloadWord 0xFFFFFC18#32) = true
    ∧ decodesTo ti (.reg .gpioStatclr 0b00010000000000000000000000000000#32) .gpioClr = true
    ∧ decodesTo ti (.reg .gpioFalldet 0x10000000#32) .gpioFalldet = true
    ∧ rejects ti (.reg .gpioStatclr 0x08000000#32) = true := by decide

/-- R90, R91: the parameter words, with TI's values. -/
theorem test_decode_param_words :
    decodesTo ti (.reg .timerStatclr 0xA1#32) .timerClr = true
    ∧ decodesTo ti (.reg .intcNewirq 0xA2#32) .newirqAck = true
    ∧ decodesTo ti (.reg .i2cOa 0x01#32) .i2cOa = true
    ∧ decodesTo ti (.reg .i2cSa 0x60#32) .i2cSa = true
    ∧ decodesTo ti (.reg .intcReset 0xA3#32) .intcReset = true
    ∧ decodesTo ti (.reg .intcMasken 0xA4#32) (.intcMasken 0xA4#32) = true
    ∧ decodesTo ti (.reg .intcMasken 0xA5#32) (.intcMasken 0xA5#32) = true
    ∧ decodesTo ti (.reg .timerReset 0xA6#32) .timerReset = true
    ∧ decodesTo ti (.reg .timerOvfie 0xA7#32) .timerOvfie = true
    ∧ decodesTo tiTimer (.reg .timerRawstat 0x2#32) (.rawOvf 0x2#32) = true
    ∧ rejects tiTimer (.reg .timerRawstat 0x1#32) = true := by decide

/-- R87, R91 and V-ENC-5. -/
theorem test_decode_xact :
    decodesTo ti (.xact 0b00010111#8 0x10#8) (.phaseCh17 0x10#8) = true
    ∧ decodesTo ti (.xact 0b00010011#8 0x00#8) (.phaseCh13 0x00#8) = true
    ∧ decodesTo ti (.xact 0b00011011#8 0x10#8) (.phaseCh1b 0x10#8) = true
    ∧ decodesTo ti (.xact 0b00011111#8 0x00#8) (.phaseCh1f 0x00#8) = true
    ∧ decodesTo ti (.xact 0b11111101#8 0b00010000#8) .brakeAllOff = true
    ∧ decodesTo ti (.xact 0b11111101#8 0b00000000#8) .brakeRelease = true
    ∧ decodesTo ti (.xact 0x00#8 0x20#8) (.setupMode1 0x20#8) = true
    ∧ decodesTo ti (.xact 0b11111110#8 0x79#8) (.setupPrescale 0x79#8) = true
    ∧ decodesTo ti (.xact 0b00000001#8 0x04#8) (.setupMode2 0x04#8) = true
    ∧ decodesTo ti (.xact 0b00001111#8 0x10#8) (.setupCh0f 0x10#8) = true
    ∧ decodesTo ti (.xact 0b00100011#8 0x10#8) (.setupCh23 0x10#8) = true
    ∧ rejects ti (.xact 0x42#8 0x00#8) = true
    ∧ rejects ti (.xact 0xFD#8 0x01#8) = true
    ∧ rejects ti (.xact 0x17#8 0x11#8) = true := by decide

/-- The table's packed words, by how many bits the table gives the row. -/
theorem test_table_words :
    decodeTableWord 0 0 = some (.reloadWord 0#32)
    ∧ decodeTableWord 3 0 = some (.dispatchTimer 0#32)
    ∧ decodeTableWord 8 4 = some (.dispatchGpio 4#32)
    ∧ decodeTableWord 16 0x1000 = some (.busy 0x1000#32)
    ∧ decodeTableWord 16 0xFD10 = some .brakeAllOff
    ∧ decodeTableWord 16 0xFD00 = some .brakeRelease
    ∧ decodeTableWord 16 0x1710 = some (.phaseCh17 0x10#8)
    ∧ decodeTableWord 16 0xFE79 = some (.setupPrescale 0x79#8)
    ∧ decodeTableWord 32 0x8603 = some .conXfer
    ∧ decodeTableWord 32 0x8000 = some .conInit
    ∧ decodeTableWord 32 0x2 = some .cnt2
    ∧ decodeTableWord 32 0x10 = some .ieXrdy
    ∧ decodeTableWord 32 0x17 = some (.dataByte 0x17#8)
    ∧ decodeTableWord 32 0xFFFFFC18 = some (.reloadWord 0xFFFFFC18#32)
    ∧ decodeTableWord 33 0 = none
    ∧ decodeTableWord 16 0x4200 = none
    ∧ decodeTableWord 16 0xFD11 = none := by decide

/-! ### Parameters, trace text, and the tables of 95_test_vectors.md -/

theorem test_ti_ok : ti.ok = true := by decide

/-- 30 R96: the text of the trace. -/
theorem test_trace_text :
    printEvent (.rd .intcActive 0x10#32) = "RD INTC.ACTIVE -> 0x00000010"
    ∧ printEvent (.wr .timerReload 0xFFFFFC18#32) = "WR TIMER.RELOAD, 0xFFFFFC18"
    ∧ printEvent (.xact 0xFD#8 0x10#8) = "XACT 0xFD, 0x10"
    ∧ printEvent .delay = "DELAY ByteSpacing"
    ∧ printEvent (.fault .busTimeout 0xFD#32) = "FAULT BusTimeout, 0xFD"
    ∧ printEvent (.fault .unknownInterrupt 0x20#32) = "FAULT UnknownInterrupt, 0x00000020" := by decide

/-- V-ENC-3. -/
theorem test_reload_words :
    reloadFor 0#32 = 0x00000000#32 ∧ reloadFor 1#32 = 0xFFFFFFFF#32 ∧ reloadFor 1000#32 = 0xFFFFFC18#32
    ∧ reloadFor 0x80000000#32 = 0x80000000#32 ∧ reloadFor 0xFFFFFFFF#32 = 0x00000001#32 := by decide

/-! ### One step per instruction -/

/-- V-DSP-1: clear, then the tick. -/
theorem test_dispatchTimer : after (exec (.dispatchTimer 0x10#32) (inHandler ti))
    (fun t => t.core.cont == [.op .timerStatusClear, .op .tick]) = true := by decide
/-- V-DSP-2: clear, then the button handler. -/
theorem test_dispatchGpio : after (exec (.dispatchGpio 0x04#32) (inHandler ti))
    (fun t => t.core.cont == [.op .gpioStatusClear, .op .button]) = true := by decide
/-- V-DSP-4: counted, and the fault is next; the pending bit stays. -/
theorem test_dispatchUnknown : after (exec (.dispatchUnknown 0x20#32) { inHandler tiFlag with intc.extraPend := true })
    (fun t => t.core.unknownIrqCount == 1#32 && t.core.cont == [.raise .unknownInterrupt 0x20#32]
      && t.intc.extraPend) = true := by decide
/-- 40 R105: the row does not exist in TwoWay. -/
theorem test_dispatchUnknown_twoWay :
    refusedWith (exec (.dispatchUnknown 0x20#32) (inHandler ti)) .absentForm = true := by decide
/-- V-I2C-3: the busy word is followed by another read. -/
theorem test_busy : after (exec (.busy 0x1000#32) { inHandler ti with i2c.stat := 0x1000#32 })
    (fun t => t.core.trace == [.rd .i2cStat 0x1000#32] && t.core.locals.busyReads == 1) = true := by decide
/-- V-I2C-4: the second busy read spends a budget of 2. -/
theorem test_busy_budget : after (exec (.busy 0x1000#32)
      { inHandler tiNack with core.locals := { srcWord := 0#32, pollAddr := 0xFD#8, busyReads := 1 } })
    (fun t => t.core.trace == [] && t.core.cont == [.raise .busTimeout 0xFD#32]) = true := by decide
theorem test_free : after (exec (.free 0#32) (inHandler ti)) (fun t => t == inHandler ti) = true := by decide
/-- L1-4 and 70 R239: the control word, and BB in the same step. -/
theorem test_conXfer : after (exec .conXfer { inHandler ti with i2c.cnt := 2#32 })
    (fun t => t.core.trace == [.wr .i2cCon 0x8603#32] && t.busy && t.i2c.txn == some { count := 2, sent := [] }) = true := by
  decide
theorem test_conInit : after (exec .conInit { inHandler ti with i2c.con := 0x8603#32 })
    (fun t => t.core.trace == [.wr .i2cCon 0x8000#32] && t.i2c.txn == none && !t.busy) = true := by decide
theorem test_cnt2 : after (exec .cnt2 (inHandler ti))
    (fun t => t.core.trace == [.wr .i2cCnt 0x2#32] && t.i2c.cnt == 2#32) = true := by decide
theorem test_ieXrdy : after (exec .ieXrdy (inHandler ti))
    (fun t => t.core.trace == [.wr .i2cIe 0x10#32] && t.i2c.ie == 0x10#32) = true := by decide
theorem test_dataByte : after (exec (.dataByte 0xFD#8) { inHandler ti with i2c.txq := [0x01#8] })
    (fun t => t.core.trace == [.wr .i2cData 0x000000FD#32] && t.i2c.txq == [0x01#8, 0xFD#8]) = true := by decide
theorem test_reloadWord : after (exec (.reloadWord 0xFFFFFC18#32) (inHandler ti))
    (fun t => t.timer.count == 0xFFFFFC18#32 && t.timer.reload == 0xFFFFFC18#32) = true := by decide
theorem test_gpioClr : after (exec .gpioClr { inHandler ti with gpio.latch := true })
    (fun t => t.core.trace == [.wr .gpioStatclr 0x10000000#32] && !t.gpio.latch) = true := by decide
theorem test_timerClr : after (exec .timerClr { inHandler ti with timer.ovf := true })
    (fun t => t.core.trace == [.wr .timerStatclr 0xA1#32] && !t.timer.ovf) = true := by decide
theorem test_newirqAck : after (exec .newirqAck (inHandler ti))
    (fun t => t.core.trace == [.wr .intcNewirq 0xA2#32] && t.intc.gate) = true := by decide
theorem test_i2cOa : after (exec .i2cOa (clean tiFlag)) (fun t => t.core.trace == [.wr .i2cOa 0x01#32]) = true := by decide
theorem test_i2cSa : after (exec .i2cSa (clean ti)) (fun t => t.core.trace == [.wr .i2cSa 0x60#32]) = true := by decide
theorem test_gpioFalldet : after (exec .gpioFalldet { clean ti with gpio.falldet := 0#32 })
    (fun t => t.gpio.falldet == 0x10000000#32) = true := by decide
theorem test_intcReset : after (exec .intcReset (inHandler ti))
    (fun t => t.core.trace == [.wr .intcReset 0xA3#32] && !t.intc.enTimer && !t.intc.enGpio) = true := by decide
theorem test_intcMasken : after (exec (.intcMasken 0xA4#32) { clean ti with intc.enTimer := false, intc.enGpio := false })
    (fun t => t.intc.enTimer && !t.intc.enGpio) = true := by decide
/-- 30 R93: no other mask word. -/
theorem test_intcMasken_refused :
    refusedWith (exec (.intcMasken 0xA6#32) (clean ti)) (.unlistedWord .intcMasken 0xA6#32) = true := by decide
/-- 60 R216. -/
theorem test_timerReset : after (exec .timerReset { clean ti with timer.ovf := true })
    (fun t => !t.timer.ovf && !t.timer.ovfie && t.core.trace == [.wr .timerReset 0xA6#32]) = true := by decide
theorem test_timerOvfie : after (exec .timerOvfie { clean ti with timer.ovfie := false })
    (fun t => t.timer.ovfie && t.core.trace == [.wr .timerOvfie 0xA7#32]) = true := by decide
theorem test_rawOvf : after (exec (.rawOvf 0x2#32) (inHandler tiTimer)) (fun t => t == inHandler tiTimer) = true := by decide
/-- V-ENC-5 and L1-5: the transactions. -/
theorem test_phaseCh17 : after (exec (.phaseCh17 0x10#8) (inHandler ti))
    (fun t => t.core.cont == [.op (.write 0x17#8 0x10#8)]) = true := by decide
/-- 30 R93: no other data byte. -/
theorem test_phaseCh17_refused :
    refusedWith (exec (.phaseCh17 0x11#8) (inHandler ti)) (.unlistedXact 0x17#8 0x11#8) = true := by decide
theorem test_phaseCh13 : after (exec (.phaseCh13 0x10#8) (inHandler ti))
    (fun t => t.core.cont == [.op (.write 0x13#8 0x10#8)]) = true := by decide
theorem test_phaseCh1b : after (exec (.phaseCh1b 0x00#8) (inHandler ti))
    (fun t => t.core.cont == [.op (.write 0x1B#8 0x00#8)]) = true := by decide
theorem test_phaseCh1f : after (exec (.phaseCh1f 0x00#8) (inHandler ti))
    (fun t => t.core.cont == [.op (.write 0x1F#8 0x00#8)]) = true := by decide
theorem test_brakeAllOff : after (exec .brakeAllOff (inHandler ti))
    (fun t => t.core.cont == [.op (.write 0xFD#8 0x10#8)]) = true := by decide
theorem test_brakeRelease : after (exec .brakeRelease (inHandler ti))
    (fun t => t.core.cont == [.op (.write 0xFD#8 0x00#8)]) = true := by decide
theorem test_setupMode1 : after (exec (.setupMode1 0x20#8) (inHandler ti))
    (fun t => t.core.cont == [.op (.write 0x00#8 0x20#8)]) = true := by decide
theorem test_setupPrescale : after (exec (.setupPrescale 0x79#8) (inHandler ti))
    (fun t => t.core.cont == [.op (.write 0xFE#8 0x79#8)]) = true := by decide
theorem test_setupMode2 : after (exec (.setupMode2 0x04#8) (inHandler ti))
    (fun t => t.core.cont == [.op (.write 0x01#8 0x04#8)]) = true := by decide
theorem test_setupCh0f : after (exec (.setupCh0f 0x10#8) (inHandler ti))
    (fun t => t.core.cont == [.op (.write 0x0F#8 0x10#8)]) = true := by decide
theorem test_setupCh23 : after (exec (.setupCh23 0x10#8) (inHandler ti))
    (fun t => t.core.cont == [.op (.write 0x23#8 0x10#8)]) = true := by decide
theorem test_dispatch : after (exec .dispatch (inHandler ti))
    (fun t => t.core.cont == [.op .readSrc, .op .decodeSrc, .op .newirqAck, .op .excReturn]) = true := by decide
theorem test_readSrc : after (exec .readSrc { inHandler ti with intc.active := 0x10#32 })
    (fun t => t.core.locals.srcWord == 0x10#32 && t.core.trace == [.rd .intcActive 0x10#32]) = true := by decide
/-- V-ENC-1: the misrouted word 0x24 in TwoWay, and the same word in Flag. -/
theorem test_decodeSrc : after (exec .decodeSrc { inHandler ti with core.locals.srcWord := 0x24#32 })
    (fun t => t.core.cont == [.op (.dispatchGpio 0x24#32)] && t.core.trace == []) = true := by decide
theorem test_decodeSrc_flag : after (exec .decodeSrc { inHandler tiFlag with core.locals.srcWord := 0x24#32 })
    (fun t => t.core.cont == [.op (.dispatchUnknown 0x24#32)]) = true := by decide
/-- V-DSP-6. -/
theorem test_excReturn : after (exec .excReturn (inHandler ti))
    (fun t => t.core.saved == none && t.core.ctx == .main && !t.core.imask && t.core.trace == [.ret]
      && t.core.pc == 7 && t.core.status == 9) = true := by decide
/-- 60 R200, 93 I-12: with nothing saved it is a refusal. -/
theorem test_excReturn_none : refusedWith (exec .excReturn (clean ti)) .returnWithoutContext = true := by decide
/-- L1-4: the calls of `write` in their order. -/
theorem test_write : after (exec (.write 0xFD#8 0x10#8) (inHandler ti))
    (fun t => t.core.cont == [.op (.pollBusy 0xFD#8), .op .setCount, .op .conXfer, .op .xrdyEnable,
      .op (.dataWrite 0xFD#8), .op .xrdyEnable, .op (.dataWrite 0x10#8), .xactMark 0xFD#8 0x10#8, .writeEnd]) = true := by
  decide
/-- V-I2C-2 runs write(0x10, 0x10), which no row lists: the mark is set; B-6: it is not set for BRAKE_ALL_OFF, and is
for 0xFD, 0x11. -/
theorem test_refusalMark :
    after (exec (.dataWrite 0x10#8) { inHandler ti with core.cont := [.xactMark 0x10#8 0x10#8, .writeEnd] })
      (fun t => t.refusalMark) = true
    ∧ after (exec (.dataWrite 0x10#8) { inHandler ti with core.cont := [.xactMark 0xFD#8 0x10#8, .writeEnd] })
      (fun t => !t.refusalMark) = true
    ∧ after (exec (.dataWrite 0x11#8) { inHandler ti with core.cont := [.xactMark 0xFD#8 0x11#8, .writeEnd] })
      (fun t => t.refusalMark) = true := by decide
/-- V-I2C-7. -/
theorem test_write_reentered : refusedWith (exec (.write 0xFD#8 0x10#8) { inHandler ti with core.cont := [.writeEnd] })
    .writeReentered = true := by decide
theorem test_pollBusy : after (exec (.pollBusy 0xFD#8) (inHandler ti))
    (fun t => t.core.trace == [.rd .i2cStat 0#32] && t.core.cont == [.op (.free 0#32)]) = true := by decide
theorem test_setCount : after (exec .setCount (inHandler ti)) (fun t => t.i2c.cnt == 2#32) = true := by decide
theorem test_xrdyEnable : after (exec .xrdyEnable (inHandler ti)) (fun t => t.i2c.ie == 0x10#32) = true := by decide
/-- V-I2C-2: the second byte's step emits XACT too. -/
theorem test_dataWrite : after (exec (.dataWrite 0x10#8)
      { inHandler ti with core.cont := [.xactMark 0x10#8 0x10#8, .writeEnd], i2c.txq := [0x10#8] })
    (fun t => t.core.trace == [.wr .i2cData 0x10#32, .xact 0x10#8 0x10#8] && t.i2c.txq == [0x10#8, 0x10#8]
      && t.core.cont == [.writeEnd]) = true := by decide
/-- V-I2C-6: NACK is tested first. -/
theorem test_completeCheck : after (exec (.completeCheck 0x17#8) { inHandler tiNack with i2c.stat := 0x6#32 })
    (fun t => t.core.cont == [.raise .transactionFailed 0x17#32]) = true := by decide
theorem test_completeCheck_again : after (exec (.completeCheck 0x17#8) (inHandler tiNack))
    (fun t => t.core.cont == [.checkLoop] && t.core.locals.busyReads == 1) = true := by decide
/-- V-SEQ-1, NextTick: at 200 the tick brakes. -/
theorem test_tick : after (exec .tick (seqAt ti true .p1 200)) (fun t => t.core.cont == [.op .tickBrake]) = true := by decide
theorem test_tick_idle : after (exec .tick (seqAt ti false .p1 0)) (fun t => t.core.cont == [.op .tickIdle]) = true := by
  decide
theorem test_tickIdle : after (exec .tickIdle (inHandler ti)) (fun t => t == inHandler ti) = true := by decide
theorem test_tickStep : after (exec .tickStep (seqAt ti true .p3 42))
    (fun t => t.core.cont == [.op (.emitPhase .p3), .op .advancePhase, .op .countStep, .stepTail, .catchFail]) = true := by
  decide
theorem test_tickStep_idle : refusedWith (exec .tickStep (seqAt ti false .p1 0)) .precondition = true := by decide
/-- L1-8 row 2: the writes of PT_X[2]. -/
theorem test_emitPhase : after (exec (.emitPhase .p2) (inHandler ti))
    (fun t => t.core.cont == [.op (.write 0x17#8 0x00#8), .op .delayByte, .op (.write 0x13#8 0x10#8), .op .delayByte,
      .op (.write 0x1B#8 0x10#8), .op .delayByte, .op (.write 0x1F#8 0x00#8), .op .delayByte]) = true := by decide
/-- V-SEQ-6: the wrap. -/
theorem test_advancePhase : after (exec .advancePhase (seqAt ti true .p4 3)) (fun t => t.core.phase == .p1) = true := by decide
/-- V-SEQ-7. -/
theorem test_countStep : after (exec .countStep (seqAt ti true .p1 199)) (fun t => t.core.steps == 200) = true := by decide
theorem test_countStep_full : refusedWith (exec .countStep (seqAt ti true .p1 200)) .precondition = true := by decide
theorem test_tickBrake : after (exec .tickBrake (seqAt ti true .p1 200))
    (fun t => t.core.cont == [.op .brake, .op .resetToIdle, .catchFail]) = true := by decide
/-- L1-5. -/
theorem test_brake : after (exec .brake (inHandler ti))
    (fun t => t.core.cont == [.op (.write 0xFD#8 0x10#8), .op (.write 0xFD#8 0x00#8)]) = true := by decide
theorem test_resetToIdle : after (exec .resetToIdle (seqAt ti true .p4 199))
    (fun t => t == seqAt ti false .p1 0) = true := by decide
theorem test_failStep : after (exec .failStep (inHandler ti)) (fun t => t.core.cont == [.op .resetToIdle]) = true := by decide
theorem test_button : after (exec .button (inHandler ti)) (fun t => t.core.cont == [.op .arm]) = true := by decide
theorem test_button_stepping : after (exec .button (seqAt ti true .p3 57))
    (fun t => t.core.cont == [.op .buttonIgnored]) = true := by decide
/-- L1-7. -/
theorem test_arm : after (exec .arm (seqAt ti false .p3 57))
    (fun t => t.core.armed && t.core.phase == .p1 && t.core.steps == 0
      && t.core.cont == [.op (.timerProgram 1000#32 .stepAdvance)]) = true := by decide
theorem test_arm_stepping : refusedWith (exec .arm (seqAt ti true .p3 57)) .precondition = true := by decide
theorem test_buttonIgnored : after (exec .buttonIgnored (inHandler ti)) (fun t => t == inHandler ti) = true := by decide
/-- V-PER-1. -/
theorem test_timerProgram : after (exec (.timerProgram 1000#32 .stepAdvance) { inHandler ti with timer.ovf := true })
    (fun t => t.core.trace == [.wr .timerReload 0xFFFFFC18#32] && t.timer.count == 0xFFFFFC18#32 && t.timer.ovf) = true := by
  decide
/-- V-PER-3. -/
theorem test_timerStatusClear : after (exec .timerStatusClear { inHandler ti with timer.ovf := true, timer.count := 5#32 })
    (fun t => !t.timer.ovf && t.timer.count == 5#32) = true := by decide
theorem test_gpioStatusClear : after (exec .gpioStatusClear { inHandler ti with gpio.latch := true })
    (fun t => !t.gpio.latch) = true := by decide
/-- V-PER-5. -/
theorem test_delayByte : after (exec .delayByte (inHandler ti))
    (fun t => t == { inHandler ti with core.trace := [.delay] }) = true := by decide
theorem test_delayByte_timer : after (exec .delayByte (inHandler tiTimer))
    (fun t => t.core.cont == [.op (.timerProgram 10#32 .byteSpacing), .rawLoop, .op .timerStatusClear]) = true := by decide
/-- 44 R174 with 00 R11: no step and no event while OVF is clear; the word that ends the hold shows bit OVF_BIT. -/
theorem test_rawHold : after (step { inHandler tiTimer with core.cont := [.rawLoop] })
      (fun t => t == { inHandler tiTimer with core.cont := [.rawLoop] }) = true
    ∧ after (step { inHandler tiTimer with core.cont := [.rawLoop], timer.ovf := true })
      (fun t => t.core.trace == [.rd .timerRawstat 0x2#32]) = true := by decide
theorem test_i2cInit : after (exec .i2cInit (clean ti))
    (fun t => t.core.cont == [.op .i2cOa, .op .i2cSa, .op .conInit]) = true := by decide
theorem test_gpioEdgeConfig : after (exec .gpioEdgeConfig (clean ti))
    (fun t => t.core.trace == [.wr .gpioFalldet 0x10000000#32]) = true := by decide
theorem test_intcConfig : after (exec .intcConfig (clean ti))
    (fun t => t.core.cont == [.op .intcReset, .op (.intcMasken 0xA4#32), .op (.intcMasken 0xA5#32)]) = true := by decide
theorem test_timerConfig : after (exec .timerConfig (clean ti))
    (fun t => t.core.cont == [.op .timerReset, .op .timerOvfie]) = true := by decide
theorem test_pwmSetup : after (exec .pwmSetup (clean { ti with pwmSetupSeq := [(0xFE#8, 0x79#8)] }))
    (fun t => t.core.cont == [.op (.write 0xFE#8 0x79#8), .catchBoot]) = true := by decide
/-- V-PER-6. -/
theorem test_enableInterrupts : after (exec .enableInterrupts
      { clean ti with core.ctx := .boot, core.imask := true })
    (fun t => !t.core.imask && t.core.ctx == .main) = true := by decide
theorem test_enableInterrupts_handler :
    refusedWith (exec .enableInterrupts (inHandler ti)) .unmaskInHandler = true := by decide
theorem test_disableInterrupts : after (exec .disableInterrupts (clean ti)) (fun t => t.core.imask) = true := by decide
/-- V-EXC-4. -/
theorem test_trapEntry : after (exec .trapEntry { clean ti with timer.ovf := true })
    (fun t => t.intc.active == 0x10#32 && !t.intc.gate && t.core.imask && t.core.ctx == .handler
      && t.core.saved != none && t.core.trace == [.entry]) = true := by decide
/-- V-EXC-1: a closed gate. -/
theorem test_trapEntry_closed :
    refusedWith (exec .trapEntry { clean ti with timer.ovf := true, intc.gate := false }) .notDeliverable = true := by decide

/-! ### The agents -/

/-- V-EXC-3. -/
theorem test_timerTick : (timerTick { clean ti with timer.count := 0xFFFFFFFE#32 }).timer.ovf = false
    ∧ (timerTick { clean ti with timer.count := 0xFFFFFFFF#32 }).timer.ovf = true
    ∧ (timerTick { clean ti with timer.count := 0xFFFFFFFF#32 }).timer.count = 0#32
    ∧ (timerTick { clean { ti with timerAutoreload := true } with
        timer.count := 0xFFFFFFFF#32, timer.reload := 7#32 }).timer.count = 7#32 := by decide
/-- V-BTN-3: two edges, one LATCH. -/
theorem test_buttonEdge : (buttonEdge (buttonEdge (clean ti))).gpio.latch = true := by decide
/-- 60 R219: the first byte handed over is the first sent; STOP waits for the last. -/
theorem test_busShift : (busShift { clean ti with
      i2c.txq := [0x17#8, 0x10#8], i2c.txn := some { count := 2, sent := [] } }).i2c.txn
      = some { count := 2, sent := [0x17#8] }
    ∧ (busFinish false { clean ti with i2c.txn := some { count := 2, sent := [0x17#8] } }).i2c.txn
      = some { count := 2, sent := [0x17#8] } := by decide

/-! ### Witnesses: the hypotheses of each obligation, met clause by clause -/

theorem witness_DecodeOfEncode : (Instr.intcMasken 0xA5#32).WellFormed ti = true
    ∧ encode ti (.intcMasken 0xA5#32) = some (.reg .intcMasken 0xA5#32) := by decide
theorem witness_EncodeOfDecode : decode ti (.reg .i2cData 0xFF#32) = .ok (.dataByte 0xFF#8) := rfl
theorem witness_ListedWordsDecode : ti.unknownIrqPolicy = .twoWay := rfl
theorem witness_UnlistedWordsRefused :
    ((0x8604#32 : Word) ≠ 0x8603#32 ∧ (0x8604#32 : Word) ≠ 0x8000#32) ∧ (0x3#32 : Word) ≠ 0x2#32
    ∧ (0x11#32 : Word) ≠ 0x10#32 ∧ 256 ≤ (0x100#32 : Word).toNat
    ∧ (0x42#8 ∉ channelRegs ++ setupRegs ∧ ¬((0x42#8 : Byte) = 0xFD#8 ∧ ((0#8 : Byte) = 0x10#8 ∨ (0#8 : Byte) = 0#8)))
    ∧ (0xFD#8 ∉ channelRegs ++ setupRegs ∧ ¬((0xFD#8 : Byte) = 0xFD#8 ∧ ((1#8 : Byte) = 0x10#8 ∨ (1#8 : Byte) = 0#8)))
    ∧ (0x17#8 ∈ channelRegs ∧ 0x11#8 ≠ ti.highVal ∧ 0x11#8 ≠ ti.lowVal) := by decide
theorem witness_UnlistedWordsRefused_params :
    ((Reg.gpioFalldet = .gpioStatclr ∨ Reg.gpioFalldet = .gpioFalldet) ∧ (0x08000000#32 : Word) ≠ 1#32 <<< ti.buttonLine.val)
    ∧ ((Reg.timerOvfie, ti.ovfieValue) ∈ [(Reg.timerStatclr, ti.timerClrValue), (.intcNewirq, ti.newirqAckValue),
        (.i2cOa, ti.ownAddr), (.i2cSa, ti.slaveAddr), (.intcReset, ti.intcResetValue),
        (.timerReset, ti.timerResetValue), (.timerOvfie, ti.ovfieValue)] ∧ (0xA8#32 : Word) ≠ ti.ovfieValue)
    ∧ ((0xA6#32 : Word) ≠ ti.maskenTimerValue ∧ (0xA6#32 : Word) ≠ ti.maskenGpioValue)
    ∧ (tiTimer.byteDelayMode = .abstract ∨ (0x1#32 : Word).getLsbD tiTimer.ovfBit = false)
    ∧ (ti.byteDelayMode = .abstract ∨ (0x2#32 : Word).getLsbD ti.ovfBit = false) := by decide
theorem witness_UnlistedWordsRefused_mark :
    ({ inHandler ti with core.cont := [.xactMark 0x42#8 0x00#8] }.core.cont = .xactMark 0x42#8 0x00#8 :: []
      ∧ decode (inHandler ti).cfg (.xact 0x42#8 0x00#8) = .error (.unlistedXact 0x42#8 0x00#8))
    ∧ ∃ s t : State, step s = .next t ∧ s.refusalMark = true :=
  ⟨⟨rfl, rfl⟩, { clean ti with core.trace := [.xact 0xFD#8 0x11#8] }, _, rfl, by decide⟩
theorem witness_UnlistedWordsRefused_decode :
    decode (clean ti).cfg (.reg .i2cCnt 0x3#32) = .error (.unlistedWord .i2cCnt 0x3#32)
    ∧ (Reg.intcActive = .i2cStat ∨ Reg.intcActive = .intcActive ∨ Reg.intcActive = .timerRawstat) :=
  ⟨rfl, by decide⟩
theorem witness_StepRunsLaidWord :
    decodeTableWord 16 0xFD10 = some .brakeAllOff ∧ decodeTableWord 40 0 = none := by decide
theorem witness_StepRunsProgramHead :
    ∃ s u v : State, (s.env.script = [] ∧ s.core.cont = [.op .tick])
      ∧ (u.env.script = [.core] ∧ u.core.cont = [.op .tick]) ∧ (v.env.script = [.timer] ∧ Move.timer ≠ .core) :=
  ⟨{ clean ti with core.cont := [.op .tick] }, { clean ti with core.cont := [.op .tick], env.script := [.core] },
    { clean ti with env.script := [.timer] }, by decide⟩
theorem witness_DispatchSequences : .op .excReturn ∉ (inHandler ti).core.cont := by decide
theorem witness_UnknownSourceCounted : (inHandler tiFlag).cfg.unknownIrqPolicy = .flag := rfl
theorem witness_RaisingAFault :
    ∃ s u v : State, (s.env.script = [] ∧ s.core.cont = [.raise .unknownInterrupt 0x20#32])
      ∧ (.catchFail ∉ [Item.writeEnd] ∧ .catchBoot ∉ [Item.writeEnd] ∧ u.env.script = []
        ∧ u.core.cont = .raise .busTimeout 0x1B#32 :: ([.writeEnd] ++ .catchFail :: []))
      ∧ (.catchFail ∉ [Item.writeEnd] ∧ .catchBoot ∉ [Item.writeEnd] ∧ v.env.script = []
        ∧ v.core.cont = .raise .transactionFailed 0xFE#32 :: ([.writeEnd] ++ .catchBoot :: [])) :=
  ⟨{ inHandler tiFlag with core.cont := [.raise .unknownInterrupt 0x20#32] },
    { inHandler tiNack with core.cont := [.raise .busTimeout 0x1B#32, .writeEnd, .catchFail] },
    { inHandler tiNack with core.cont := [.raise .transactionFailed 0xFE#32, .writeEnd, .catchBoot] }, by decide⟩
theorem witness_RaisingAFault_standalone :
    ∃ s : State, (∀ x ∈ ([] ++ [.op .tick] : List Item), x ≠ .catchFail ∧ x ≠ .catchBoot)
      ∧ .writeEnd ∉ ([] : List Item) ∧ s.env.script = []
      ∧ s.core.cont = .raise .busTimeout 0x1B#32 :: ([] ++ .writeEnd :: [.op .tick]) :=
  ⟨{ inHandler tiNack with core.cont := [.raise .busTimeout 0x1B#32, .writeEnd, .op .tick] }, by decide⟩
theorem witness_ExcReturnRestores :
    (inHandler ti).core.saved = some { pc := 7, status := 9, imask := false } ∧ (clean ti).core.saved = none := by decide
theorem witness_TrapEntryTakesInterrupt :
    ∃ s : State, s.core.ctx = .main ∧ s.core.imask = false ∧ s.intc.gate = true
      ∧ s.pending .gpio = true ∧ s.pending .timer = true ∧ s.pending .extra = true ∧ s.env.pick = .extra :=
  ⟨{ clean tiFlag with gpio.latch := true, timer.ovf := true, intc.extraPend := true, env.pick := .extra }, by decide⟩
theorem witness_MainLoopDeliversOrStutters :
    ∃ s u : State, ((s.core.ctx = .main ∧ s.core.cont = []) ∧ s.env.script = []
        ∧ s.intc.gate = true ∧ s.core.imask = false ∧ s.pending .timer = true)
      ∧ ((u.core.ctx = .main ∧ u.core.cont = []) ∧ u.env.script = []
        ∧ ¬(u.intc.gate = true ∧ u.core.imask = false
          ∧ (u.pending .timer = true ∨ u.pending .gpio = true ∨ u.pending .extra = true))) :=
  ⟨{ clean ti with timer.ovf := true }, clean ti, by decide⟩
theorem witness_FormsRefused :
    ∃ s u v w x : State, s.core.ctx = .handler ∧ .op .excReturn ∈ u.core.cont ∧ .writeEnd ∈ v.core.cont
      ∧ (.writeEnd ∉ w.core.cont ∧ w.core.ctx = .main ∧ w.core.imask = false)
      ∧ (x.core.ctx ≠ .handler ∧ ¬(x.core.ctx = .main ∧ x.core.imask = false ∧ x.intc.gate = true
        ∧ (x.pending .timer = true ∨ x.pending .gpio = true ∨ x.pending .extra = true))) :=
  ⟨inHandler ti, { inHandler ti with core.cont := [.op .excReturn] }, { inHandler ti with core.cont := [.writeEnd] },
    clean ti, { clean ti with timer.ovf := true, intc.gate := false }, by decide⟩
theorem witness_FormsRefused_configurations :
    ti.unknownIrqPolicy = .twoWay ∧ ti.nackDetect = false
    ∧ ((0xA6#32 : Word) ≠ ti.maskenTimerValue ∧ (0xA6#32 : Word) ≠ ti.maskenGpioValue)
    ∧ ¬((seqAt ti true .p1 200).core.armed = true ∧ (seqAt ti true .p1 200).core.steps < 200)
    ∧ ¬((seqAt ti false .p1 0).core.armed = true ∧ (seqAt ti false .p1 0).core.steps < 200)
    ∧ (seqAt ti true .p1 200).core.armed = true
    ∧ (clean ti).core.saved = none
    ∧ (0x11#8 ≠ (clean ti).cfg.highVal ∧ 0x11#8 ≠ (clean ti).cfg.lowVal) := by decide
theorem witness_TransactionRowsCallWrite :
    (0x10#8 = (clean ti).cfg.highVal ∨ 0x10#8 = (clean ti).cfg.lowVal)
    ∧ (0x00#8 = (clean ti).cfg.highVal ∨ 0x00#8 = (clean ti).cfg.lowVal) := by decide
theorem witness_WriteExpands :
    .writeEnd ∉ (inHandler ti).core.cont ∧ ((inHandler ti).core.ctx = .main → (inHandler ti).core.imask = true) := by
  decide
theorem witness_PollReadsStatus :
    ∃ s : State, s.cfg.pollBudget = some 2 ∧ 2 ≤ s.core.locals.busyReads + 1 :=
  ⟨{ inHandler tiNack with core.locals.busyReads := 1 }, by decide⟩
theorem witness_PollReadsStatus_again :
    ∀ b, (inHandler tiNack).cfg.pollBudget = some b → (inHandler tiNack).core.locals.busyReads + 1 < b := by
  intro b h; cases h; decide
theorem witness_DataWriteQueuesByte : ∀ a d k, (inHandler ti).core.cont ≠ .xactMark a d :: k := by
  intro a d k h; cases h
theorem witness_DataWriteQueuesByte_forms : (Instr.dataByte 1#8 = .dataWrite 1#8 ∨ Instr.dataByte 1#8 = .dataByte 1#8) := by
  decide
theorem witness_DataWriteQueuesByte_second :
    { inHandler ti with core.cont := [.xactMark 0x17#8 0x10#8] }.core.cont = .xactMark 0x17#8 0x10#8 :: [] := rfl
theorem witness_CompleteCheckTests :
    ∃ s u v : State, (s.cfg.nackDetect = true ∧ s.i2c.stat.getLsbD s.cfg.nackBit = true)
      ∧ (u.cfg.nackDetect = true ∧ u.i2c.stat.getLsbD u.cfg.nackBit = false ∧ u.i2c.stat.getLsbD u.cfg.doneBit = true)
      ∧ (v.cfg.nackDetect = true ∧ v.i2c.stat.getLsbD v.cfg.nackBit = false
        ∧ v.i2c.stat.getLsbD v.cfg.doneBit = false ∧ v.cfg.pollBudget = some 1 ∧ 1 ≤ 1) :=
  ⟨{ inHandler tiNack with i2c.stat := 0x6#32 }, { inHandler tiNack with i2c.stat := 0x4#32 },
    { inHandler tiNack with cfg.pollBudget := some 1 }, by decide⟩
theorem witness_CompleteCheckTests_again :
    (inHandler tiNack).cfg.nackDetect = true
    ∧ (inHandler tiNack).i2c.stat.getLsbD (inHandler tiNack).cfg.nackBit = false
    ∧ (inHandler tiNack).i2c.stat.getLsbD (inHandler tiNack).cfg.doneBit = false
    ∧ ∀ b, (inHandler tiNack).cfg.pollBudget = some b → 1 < b :=
  ⟨rfl, rfl, rfl, by intro b h; cases h; decide⟩
theorem witness_CompleteCheckLoops :
    ∃ s u v : State, (s.cfg.nackDetect = true ∧ s.env.script = [] ∧ s.core.cont = [.checkLoop]
        ∧ s.i2c.stat.getLsbD s.cfg.nackBit = true)
      ∧ (u.cfg.nackDetect = true ∧ u.env.script = [] ∧ u.core.cont = [.checkLoop]
        ∧ u.i2c.stat.getLsbD u.cfg.nackBit = false ∧ u.i2c.stat.getLsbD u.cfg.doneBit = true)
      ∧ (v.cfg.nackDetect = true ∧ v.env.script = [] ∧ v.core.cont = [.checkLoop]
        ∧ v.i2c.stat.getLsbD v.cfg.nackBit = false ∧ v.i2c.stat.getLsbD v.cfg.doneBit = false
        ∧ v.cfg.pollBudget = some 2 ∧ 2 ≤ v.core.locals.busyReads + 1) :=
  ⟨{ inHandler tiNack with core.cont := [.checkLoop], i2c.stat := 0x6#32 },
    { inHandler tiNack with core.cont := [.checkLoop], i2c.stat := 0x4#32 },
    { inHandler tiNack with core.cont := [.checkLoop], core.locals.busyReads := 1 }, by decide⟩
theorem witness_CompleteCheckLoops_again :
    (inHandler tiNack).i2c.stat.getLsbD (inHandler tiNack).cfg.nackBit = false
    ∧ (inHandler tiNack).i2c.stat.getLsbD (inHandler tiNack).cfg.doneBit = false
    ∧ ∀ b, (inHandler tiNack).cfg.pollBudget = some b → (inHandler tiNack).core.locals.busyReads + 1 < b :=
  ⟨rfl, rfl, by intro b h; cases h; decide⟩
theorem witness_WriteIssuesLiteralSequence :
    ∃ s : State, s.env.script = [] ∧ s.core.cont = [.op (.write 0xFD#8 0x10#8)] ∧ .writeEnd ∉ ([] : List Item)
      ∧ (s.core.ctx = .main → s.core.imask = true) ∧ s.cfg.nackDetect = false ∧ s.i2c.stat.getLsbD 12 = false :=
  ⟨{ inHandler ti with core.cont := [.op (.write 0xFD#8 0x10#8)] }, by decide⟩
theorem witness_TickChoosesRow :
    (seqAt ti false .p1 0).core.armed = false
    ∧ ((seqAt ti true .p1 200).core.armed = true ∧ (seqAt ti true .p1 200).core.steps = 200)
    ∧ ((seqAt ti true .p4 199).core.armed = true ∧ (seqAt ti true .p4 199).core.steps ≠ 200) := by decide
theorem witness_TickStepOrder :
    ((seqAt ti true .p4 199).core.armed = true ∧ (seqAt ti true .p4 199).core.steps < 200)
    ∧ ∃ s u : State, (s.env.script = [] ∧ s.core.cont = [.stepTail] ∧ s.cfg.brakeTick = .sameTick ∧ s.core.steps = 200)
      ∧ (u.env.script = [] ∧ u.core.cont = [.stepTail] ∧ (u.cfg.brakeTick = .nextTick ∨ u.core.steps ≠ 200)) :=
  ⟨by decide, { seqAt ti true .p1 200 with core.cont := [.stepTail] },
    { seqAt ti true .p4 199 with core.cont := [.stepTail] }, by decide⟩
theorem witness_AdvanceAndCount : (seqAt ti true .p4 199).core.steps < 200 := by decide
theorem witness_BrakeSequence :
    (inHandler ti).cfg.brakeDelay = false ∧ (inHandler { ti with brakeDelay := true }).cfg.brakeDelay = true := by decide
theorem witness_ButtonArmsWhenIdle :
    (seqAt ti false .p1 0).core.armed = false ∧ (seqAt ti true .p3 57).core.armed = true := by decide
theorem witness_DelayByteModes :
    (inHandler ti).cfg.byteDelayMode = .abstract ∧ (inHandler tiTimer).cfg.byteDelayMode = .timer
    ∧ (0x2#32).getLsbD (inHandler tiTimer).cfg.ovfBit = true
    ∧ (0x1#32).getLsbD (inHandler tiTimer).cfg.ovfBit = false
    ∧ ∃ s u : State, (s.cfg.byteDelayMode = .timer ∧ s.env.script = [] ∧ s.core.cont = [.rawLoop] ∧ s.timer.ovf = false)
      ∧ (u.cfg.byteDelayMode = .timer ∧ u.env.script = [] ∧ u.core.cont = [.rawLoop] ∧ u.timer.ovf = true) :=
  ⟨rfl, rfl, rfl, rfl, { inHandler tiTimer with core.cont := [.rawLoop] },
    { inHandler tiTimer with core.cont := [.rawLoop], timer.ovf := true }, by decide⟩
/-- The last two: equal mask values, where both cases meet. -/
theorem witness_BootConfiguresIntcAndTimer :
    (0xA4#32 : Word) = (clean ti).cfg.maskenTimerValue ∧ (0xA5#32 : Word) = (clean ti).cfg.maskenGpioValue
    ∧ (0xA4#32 : Word) = (clean { ti with maskenGpioValue := 0xA4#32 }).cfg.maskenTimerValue
    ∧ (0xA4#32 : Word) = (clean { ti with maskenGpioValue := 0xA4#32 }).cfg.maskenGpioValue := by decide
theorem witness_InterruptMaskOperations : (clean ti).core.ctx ≠ .handler := by decide
theorem witness_RegisterAccessIsMemoryAccess :
    (clean tiTimer).cfg.addrs.ok (clean tiTimer).cfg.byteDelayMode = true
    ∧ (Reg.timerRawstat = .timerRawstat → (clean tiTimer).cfg.byteDelayMode = .timer)
    ∧ (clean ti).cfg.addrs.ok (clean ti).cfg.byteDelayMode = true ∧ (Reg.i2cCnt = .timerRawstat → (clean ti).cfg.byteDelayMode = .timer)
    ∧ ((2 ≠ 4 ∨ 0x1000 % 4 ≠ 0) ∧ (4 ≠ 4 ∨ 0x1002 % 4 ≠ 0)) := by decide
/-- With one setup pair, and LATCH set before boot. -/
theorem witness_BootReachesCleanEntry :
    ∃ s : State, s.core = State.reset.core ∧ s.env.script = eagerBoot s.cfg ∧ s.cfg.nackDetect = false
      ∧ s.intc.extraPend = false ∧ s.i2c.stat.getLsbD 12 = false ∧ s.i2c.txq = [] ∧ s.i2c.txn = none
      ∧ s.cfg.pwmSetupSeq ≠ [] ∧ s.gpio.latch = true :=
  ⟨{ clean { ti with pwmSetupSeq := [(0xFE#8, 0x79#8)] } with
      core := State.reset.core, timer.ovf := true, gpio.latch := true, i2c.stat := 0x00000FFF#32
      env.script := eagerBoot { ti with pwmSetupSeq := [(0xFE#8, 0x79#8)] } },
    rfl, rfl, by decide⟩
theorem witness_ButtonHandlerArms :
    ∃ s : State, AtMain s ∧ s.env.script = [] ∧ s.core.imask = false ∧ s.intc.gate = true ∧ s.core.armed = false
      ∧ s.gpio.latch = true ∧ s.intc.enGpio = true ∧ s.pending .timer = false ∧ s.pending .extra = false
      ∧ s.cfg.srcWordGpio.getLsbD 2 = true :=
  ⟨{ clean ti with gpio.latch := true }, ⟨rfl, rfl⟩, by decide⟩
theorem witness_SteppingTickWhole :
    ∃ s u : State, [s, u].Forall (fun x => AtMain x ∧ x.env.script = eagerTick ∧ x.core.imask = false
        ∧ x.intc.gate = true ∧ x.core.armed = true ∧ x.cfg.unknownIrqPolicy = .twoWay ∧ x.cfg.nackDetect = false
        ∧ x.cfg.byteDelayMode = .abstract ∧ x.timer.ovf = true ∧ x.timer.ovfie = true ∧ x.intc.enTimer = true
        ∧ x.pending .gpio = false ∧ x.pending .extra = false ∧ x.cfg.srcWordTimer.getLsbD 2 = false
        ∧ x.i2c.stat.getLsbD 12 = false ∧ x.i2c.txq = [] ∧ x.i2c.txn = none)
      ∧ s.core.steps = 198 ∧ u.cfg.brakeTick = .nextTick ∧ u.core.steps = 199 :=
  ⟨{ clean ti with
      core.armed := true, core.phase := .p3, core.steps := 198, timer.ovf := true, env.script := eagerTick },
    { clean { ti with brakeTick := .nextTick } with
      core.armed := true, core.phase := .p4, core.steps := 199, timer.ovf := true, env.script := eagerTick },
    ⟨⟨⟨rfl, rfl⟩, rfl, by decide⟩, ⟨⟨rfl, rfl⟩, rfl, by decide⟩⟩, rfl, rfl, rfl⟩
theorem witness_TimerTickCounts :
    ∃ s u v : State, (s.timer.ovfie = true ∧ s.timer.count ≠ 0xFFFFFFFF#32)
      ∧ (u.timer.ovfie = true ∧ u.timer.count = 0xFFFFFFFF#32 ∧ u.cfg.timerAutoreload = true)
      ∧ (v.timer.ovfie = true ∧ v.timer.count = 0xFFFFFFFF#32 ∧ v.cfg.timerAutoreload = false) :=
  ⟨{ clean ti with timer.count := 0xFFFFFFFE#32 },
    { clean { ti with timerAutoreload := true } with timer.count := 0xFFFFFFFF#32 },
    { clean ti with timer.count := 0xFFFFFFFF#32 }, by decide⟩
theorem witness_ReloadGivesDelay :
    ∃ s : State, s.timer.ovfie = true ∧ s.timer.ovf = false
      ∧ s.timer.count.toNat = (2 ^ 32 - (1000#32).toNat) % 2 ^ 32 ∧ 0 < (1000#32).toNat :=
  ⟨{ clean ti with timer.count := 0xFFFFFC18#32 }, by decide⟩
theorem witness_ReloadGivesDelay_zero :
    (clean ti).timer.ovfie = true ∧ (clean ti).timer.ovf = false
      ∧ (clean ti).timer.count.toNat = (2 ^ 32 - (0#32).toNat) % 2 ^ 32 := by decide
theorem witness_ButtonEdgeLatches :
    (clean ti).gpio.falldet.getLsbD (clean ti).cfg.buttonLine = true
    ∧ { clean ti with gpio.falldet := 0#32 }.gpio.falldet.getLsbD ti.buttonLine = false := by decide
/-- One step of each kind: the queue alone, a byte appended, the head sent. -/
theorem witness_QueueKeepsOrder :
    (∃ t, step (clean ti) = .next t ∧ t.i2c.txq = [])
    ∧ (∃ t, step { inHandler ti with core.cont := [.op (.dataWrite 1#8)] } = .next t ∧ t.i2c.txq = [1#8])
    ∧ ∃ t, step { clean ti with
        env.script := [.busShift], i2c.txq := [1#8, 2#8], i2c.txn := some { count := 2, sent := [] } } = .next t
      ∧ t.i2c.txq = [2#8] :=
  ⟨⟨_, rfl, rfl⟩, ⟨_, rfl, rfl⟩, _, rfl, rfl⟩
theorem witness_QueueKeepsOrder_shift :
    ∃ s u v : State, (s.i2c.txn = some { count := 2, sent := [3#8] } ∧ s.i2c.txq = 1#8 :: [] ∧ [3#8].length < 2)
      ∧ u.i2c.txq = [] ∧ v.i2c.txq ≠ [] ∧ ∀ x, v.i2c.txn = some x → x.count ≤ x.sent.length :=
  ⟨{ clean ti with i2c.txq := [1#8], i2c.txn := some { count := 2, sent := [3#8] } }, clean ti,
    { clean ti with i2c.txq := [1#8], i2c.txn := some { count := 1, sent := [3#8] } }, by decide, rfl, by decide,
    by intro x h; cases h; decide⟩
theorem witness_QueueKeepsOrder_finish :
    ∃ s u v : State, (s.i2c.txn = some { count := 1, sent := [3#8] } ∧ 1 ≤ [3#8].length ∧ s.cfg.nackDetect = false)
      ∧ (u.i2c.txn = some { count := 1, sent := [3#8] } ∧ u.cfg.nackDetect = true ∧ u.cfg.doneBit ≠ u.cfg.nackBit)
      ∧ v.i2c.txn ≠ none ∧ ∀ x, v.i2c.txn = some x → x.sent.length < x.count :=
  ⟨{ clean ti with i2c.txn := some { count := 1, sent := [3#8] } },
    { clean tiNack with i2c.txn := some { count := 1, sent := [3#8] } },
    { clean ti with i2c.txn := some { count := 2, sent := [3#8] } }, by decide, by decide, by decide,
    by intro x h; cases h; decide⟩
theorem witness_QueueKeepsOrder_line :
    (clean ti).i2c.txn = none ∧ { clean ti with i2c.txn := some { count := 2, sent := [] } }.i2c.txn ≠ none := by decide
theorem witness_EnvironmentRights :
    ∃ s t : State, step s = .next t ∧ s.intc.extraPend = true :=
  ⟨{ clean ti with intc.extraPend := true, env.script := [.press] }, _, rfl, rfl⟩
/-- Inside a stepping tick, at the pair, and at its count. -/
theorem witness_SequencerCoherentKept :
    ∃ s t : State, SequencerCoherent s ∧ step s = .next t ∧ t.core.phase = .p4 :=
  ⟨{ seqAt ti true .p3 2 with core.cont := [.op .advancePhase, .op .countStep, .stepTail, .catchFail] }, _,
    ⟨⟨trivial, fun h => absurd h (by decide), fun h => absurd h (by decide), fun _ => rfl, fun _ => rfl, trivial⟩,
      by decide, fun _ _ => rfl, by unfold PhaseTracksSteps; decide, fun h => absurd h (by decide)⟩, rfl, rfl⟩
theorem witness_SequencerAtMain : ∃ s : State, SequencerCoherent s ∧ AtMain s ∧ s.core.steps = 200 :=
  ⟨{ clean { ti with brakeTick := .nextTick } with core.armed := true, core.steps := 200 },
    ⟨⟨trivial, trivial⟩, by decide, fun h => absurd h (by decide), by unfold PhaseTracksSteps; decide,
      fun h => absurd h (by decide)⟩, ⟨rfl, rfl⟩, rfl⟩
theorem witness_SequencerAtMain_idle : SequencerCoherent (clean ti) ∧ AtMain (clean ti)
    ∧ (clean ti).cfg.brakeTick = .sameTick ∧ (clean ti).core.armed = false :=
  ⟨⟨⟨trivial, trivial⟩, by decide, fun _ h => absurd h (by decide), by unfold PhaseTracksSteps; decide,
    fun _ => ⟨rfl, rfl⟩⟩, ⟨rfl, rfl⟩, rfl, rfl⟩
/-- A pressed button; the tick after it finds the bus busy past its budget, which ends the run (42 R149). -/
def pressed : State :=
  { clean { ti with pollBudget := some 1, stepTicks := 1#32 } with
    gpio.latch := true
    env.script := List.replicate 11 .core ++ [.busLine true, .timer] }
theorem witness_SequencerAtMain_run :
    SequencerCoherent pressed ∧ ∃ a t, CommandedRun pressed a t ∧ t.core.faults = [(.busTimeout, 0x17#32)] :=
  ⟨⟨⟨trivial, trivial⟩, by decide, fun _ h => absurd h (by decide), by unfold PhaseTracksSteps; decide,
    fun _ => ⟨rfl, rfl⟩⟩, _, _, ⟨by decide, ⟨20, rfl⟩, 60, rfl⟩, rfl⟩
theorem witness_StepsAdvanceOnlyArmed :
    ∃ s t : State, SequencerCoherent s ∧ step s = .next t ∧ t.core.steps ≠ s.core.steps ∧ t.core.steps ≠ 0 :=
  ⟨{ seqAt ti true .p4 2 with core.cont := [.op .countStep, .stepTail, .catchFail] }, _,
    ⟨⟨trivial, fun h => absurd h (by decide), fun _ => rfl, fun _ => rfl, trivial⟩, by decide, fun _ _ => rfl,
      by unfold PhaseTracksSteps; decide, fun h => absurd h (by decide)⟩, rfl, by decide, by decide⟩
theorem witness_ContextCoherentKept :
    ∃ s t : State, ContextCoherent s ∧ step s = .next t ∧ s.core.ctx = .main ∧ t.core.ctx = .handler :=
  ⟨{ clean ti with timer.ovf := true }, _,
    ⟨fun h => absurd h (by decide), fun _ => rfl, fun h => absurd h (by decide)⟩, rfl, rfl, rfl⟩
theorem witness_HandlerEntryAndExit :
    (∃ s t : State, step s = .next t ∧ s.core.ctx ≠ .handler ∧ t.core.ctx = .handler)
    ∧ ∃ s t : State, step s = .next t ∧ s.core.ctx = .handler ∧ t.core.ctx ≠ .handler :=
  ⟨⟨{ clean ti with timer.ovf := true }, _, rfl, by decide, rfl⟩,
    { inHandler ti with core.cont := [.op .excReturn] }, _, rfl, rfl, by decide⟩
theorem witness_GateRules :
    (∃ s t : State, step s = .next t ∧ s.intc.gate = true ∧ t.intc.gate = false)
    ∧ ∃ s t : State, step s = .next t ∧ s.intc.gate = false ∧ t.intc.gate = true :=
  ⟨⟨{ clean ti with timer.ovf := true }, _, rfl, rfl, rfl⟩,
    { inHandler ti with core.cont := [.op .newirqAck] }, _, rfl, rfl, rfl⟩
theorem witness_BusyWhileSendingKept :
    ∃ s t : State, BusyWhileSending s ∧ s.i2c.txn ≠ none ∧ step s = .next t :=
  ⟨{ clean ti with
      i2c.stat := 0x1000#32, i2c.txn := some { count := 2, sent := [] }, i2c.txq := [1#8, 2#8], env.script := [.busShift] },
    _, fun _ => by decide, by decide, rfl⟩
theorem witness_FaultFreeKept : ∃ s t : State, FaultFree s ∧ step s = .next t :=
  ⟨{ inHandler ti with core.cont := [.op (.pollBusy 1#8)] }, _, by unfold FaultFree; decide, rfl⟩
theorem witness_WritesListedKept :
    ∃ s t : State, WritesListed s ∧ s.core.trace ≠ [] ∧ step s = .next t :=
  ⟨{ inHandler ti with core.trace := [.wr .i2cCnt 0x2#32], core.cont := [.op .xrdyEnable] }, _,
    by unfold WritesListed; decide, by decide, rfl⟩
/-- At the hand-over of a phase write. -/
theorem witness_WritesListedKept_transactions :
    ∃ s t : State, TransactionsListed s ∧ step s = .next t ∧ t.core.trace = [.wr .i2cData 0x10#32, .xact 0x17#8 0x10#8] :=
  ⟨{ inHandler ti with core.cont := [.op (.dataWrite 0x10#8), .xactMark 0x17#8 0x10#8, .writeEnd] }, _,
    by unfold TransactionsListed; decide, rfl, rfl⟩
/-- A step that appends two events, and one that appends a fault record. -/
theorem witness_HistoryOnlyGrows :
    (∃ s t : State, step s = .next t ∧ t.core.trace = [.wr .i2cData 1#32, .xact 2#8 1#8])
    ∧ ∃ s t : State, step s = .next t ∧ t.core.faults = [(.busTimeout, 0xFD#32)] :=
  ⟨⟨{ inHandler ti with core.cont := [.op (.dataWrite 1#8), .xactMark 2#8 1#8] }, _, rfl, rfl⟩,
    { inHandler ti with core.cont := [.raise .busTimeout 0xFD#32] }, _, rfl, rfl⟩
theorem witness_OnlyArmArms :
    (∃ t, exec .arm (seqAt ti false .p1 0) = .next t ∧ t.core.armed = true)
    ∧ ∃ t, exec .resetToIdle (seqAt ti true .p1 200) = .next t ∧ t.core.armed = false :=
  ⟨⟨_, rfl, rfl⟩, _, rfl, rfl⟩

end Sys2Proof.Tests
end

section
/-! The obligations about the primitives of spec/00_scope.md R11: a register access is the memory access at its address
(O39), and a step only extends the trace and the fault log and keeps the parameters (O59). -/

namespace Sys2Proof.Proofs.Scope

open Sys2Proof Sys2Proof.Machine

/-! ### The address map (spec/10_state.md R39, spec/20_memory.md R62) -/

/-- Every label exists but TIMER.RAWSTAT outside the Timer byte-delay mode. -/
theorem mem_labels_iff (mode : ByteDelayMode) (r : Reg) :
    r ∈ Reg.labels mode ↔ (r = .timerRawstat → mode = .timer) := by
  cases mode <;> cases r <;> decide

theorem addrs_ok_iff (mode : ByteDelayMode) (m : AddrMap) :
    m.ok mode = true ↔ (∀ r ∈ Reg.labels mode, m.addr r % 4 = 0) ∧ ((Reg.labels mode).map m.addr).Nodup := by
  simp [AddrMap.ok]

/-- Among labels with distinct addresses, the search for an existing label's address finds that label. -/
theorem regAt_addr {c : Params} {r : Reg} (hd : ((Reg.labels c.byteDelayMode).map c.addrs.addr).Nodup)
    (hr : r ∈ Reg.labels c.byteDelayMode) : regAt c (c.addrs.addr r) = some r := by
  have hfound : (regAt c (c.addrs.addr r)).isSome := List.find?_isSome.mpr ⟨r, hr, beq_self_eq_true _⟩
  obtain ⟨q, hq⟩ := Option.isSome_iff_exists.mp hfound
  have haddr : c.addrs.addr q = c.addrs.addr r := by
    simpa using List.find?_some (p := fun q => c.addrs.addr q == c.addrs.addr r) hq
  rw [hq, List.inj_on_of_nodup_map hd (List.mem_of_find?_eq_some hq) hr haddr]

theorem memWrite_misaligned {addr size : Nat} (h : size ≠ 4 ∨ addr % 4 ≠ 0) (v : Word) (s : State) :
    memWrite addr size v s = .refused (.misaligned addr size) := if_pos h

theorem memRead_misaligned {addr size : Nat} (h : size ≠ 4 ∨ addr % 4 ≠ 0) (k : Word → State → Out) (s : State) :
    memRead addr size k s = .refused (.misaligned addr size) := if_pos h

theorem memWrite_word {addr : Nat} {r : Reg} {s : State} (ha : addr % 4 = 0) (hr : regAt s.cfg addr = some r)
    (v : Word) : memWrite addr 4 v s = regWrite r v s := by
  simp [memWrite, ha, hr]

theorem memRead_word {addr : Nat} {r : Reg} {s : State} (ha : addr % 4 = 0) (hr : regAt s.cfg addr = some r)
    (k : Word → State → Out) : memRead addr 4 k s = regRead r k s := by
  simp [memRead, ha, hr]

/-- Settles O39: the address constraint makes `regAt` the inverse of the address map on the labels that exist. -/
theorem registerAccessIsMemoryAccess : Obligations.RegisterAccessIsMemoryAccess := by
  refine ⟨fun s r v hok hraw => ?_, fun s _ _ v h => memWrite_misaligned h v s,
    fun s _ _ k h => memRead_misaligned h k s⟩
  obtain ⟨haligned, hdistinct⟩ := (addrs_ok_iff _ _).mp hok
  have hr : r ∈ Reg.labels s.cfg.byteDelayMode := (mem_labels_iff _ _).mpr hraw
  have hat : regAt s.cfg (s.cfg.addrs.addr r) = some r := regAt_addr hdistinct hr
  exact ⟨memWrite_word (haligned r hr) hat v, memRead_word (haligned r hr) hat⟩

/-! ### The history (spec/10_state.md R20, R43, R44) -/

/-- What every meaning but the raising of a fault does to the history: the parameters and the fault log stay, and at
most two events are appended to the trace. -/
structure AppendsEvents (s t : State) : Prop where
  cfg : t.cfg = s.cfg
  faults : t.core.faults = s.core.faults
  trace : ∃ es, t.core.trace = s.core.trace ++ es ∧ es.length ≤ 2

theorem AppendsEvents.of_trace_eq {s t : State} (hc : t.cfg = s.cfg) (hf : t.core.faults = s.core.faults)
    (ht : t.core.trace = s.core.trace) : AppendsEvents s t :=
  ⟨hc, hf, [], by simp [ht], by simp⟩

theorem AppendsEvents.of_event {s t : State} (e : Event) (hc : t.cfg = s.cfg) (hf : t.core.faults = s.core.faults)
    (ht : t.core.trace = s.core.trace ++ [e]) : AppendsEvents s t :=
  ⟨hc, hf, [e], ht, by simp⟩

theorem AppendsEvents.of_setCont {k : List Item} {s t : State} (h : AppendsEvents (setCont k s) t) :
    AppendsEvents s t := by
  obtain ⟨hc, hf, ht⟩ := h
  exact ⟨hc, hf, ht⟩

theorem onlyProgram_cfg {s t : State} (h : OnlyProgram s t) : t.cfg = s.cfg := by rw [h]

theorem onlyProgram_faults {s t : State} (h : OnlyProgram s t) : t.core.faults = s.core.faults := by rw [h]

theorem appendsEvents_of_calls {is : List Item} {s t : State} (h : Calls is s t) : AppendsEvents s t := by
  obtain ⟨hp, -, ht | ⟨r, v, ht⟩ | ht⟩ := h
  · exact .of_trace_eq (onlyProgram_cfg hp) (onlyProgram_faults hp) ht
  · exact .of_event _ (onlyProgram_cfg hp) (onlyProgram_faults hp) ht
  · exact .of_event _ (onlyProgram_cfg hp) (onlyProgram_faults hp) ht

theorem written_trace (r : Reg) (v : Word) (s : State) :
    (written r v s).core.trace = s.core.trace ++ [.wr r v] := by rw [written_core]

theorem written_faults (r : Reg) (v : Word) (s : State) : (written r v s).core.faults = s.core.faults := by
  rw [written_core]

theorem appendsEvents_written (r : Reg) (v : Word) (s : State) : AppendsEvents s (written r v s) :=
  .of_event _ (written_cfg r v s) (written_faults r v s) (written_trace r v s)

/-- The two events of one step: the write of the second byte, and the transaction it hands over (41 R126). -/
theorem appendsEvents_handOver_written (r : Reg) (v : Word) (s : State) :
    AppendsEvents s (handOver (written r v s)) := by
  rcases handOver_cases (written r v s) with ⟨a, d, k, -, h⟩ | h
  · refine ⟨?_, ?_, [.wr r v, .xact a d], ?_, by simp⟩
    · rw [h]; exact written_cfg r v s
    · rw [h]; exact written_faults r v s
    · simp [h, written_trace]
  · rw [h]; exact appendsEvents_written r v s

theorem appendsEvents_of_writes {s t : State} (h : Writes s t) : AppendsEvents s t := by
  obtain ⟨r, v, -, rfl | ⟨-, rfl⟩⟩ := h
  · exact appendsEvents_written r v s
  · exact appendsEvents_handOver_written r v s

/-- No instruction writes the parameters or the fault log, and none appends more than two events. -/
theorem exec_appendsEvents {i : Instr} {s t : State} (h : exec i s = .next t) : AppendsEvents s t := by
  cases exec_effect h with
  | calls _ is _ hc => exact appendsEvents_of_calls hc
  | writes _ _ hw => exact appendsEvents_of_writes hw
  | faults _ f w _ hc => exact appendsEvents_of_calls hc
  | tickStep | advancePhase | countStep | resetToIdle | arm | unknown | enable | disable =>
    exact .of_trace_eq rfl rfl rfl
  | excReturn => exact .of_event .ret rfl rfl rfl
  | trapEntry => exact .of_event .entry rfl rfl rfl

theorem checkRead_appendsEvents {s t : State} (h : checkRead s = .next t) : AppendsEvents s t := by
  obtain ⟨-, h⟩ := checkRead_next h
  rcases checkTest_next h with rfl | rfl | rfl | rfl <;>
    exact .of_event (.rd .i2cStat s.i2c.stat) rfl rfl rfl

theorem rawRead_appendsEvents {s t : State} (h : rawRead s = .next t) : AppendsEvents s t := by
  rcases rawRead_next h with ⟨-, rfl⟩ | rfl
  · exact .of_trace_eq rfl rfl rfl
  · exact .of_event (.rd .timerRawstat s.rawWord) rfl rfl rfl

theorem afterCount_appendsEvents (s : State) : AppendsEvents s (afterCount s) := by
  unfold afterCount
  split <;> exact .of_trace_eq rfl rfl rfl

/-- Raising a fault: one record in the log, and its event in the trace (60 R211). -/
structure RecordsFault (f : FaultCode) (info : Word) (s t : State) : Prop where
  cfg : t.cfg = s.cfg
  faults : t.core.faults = s.core.faults ++ [(f, info)]
  trace : t.core.trace = s.core.trace ++ [.fault f info]

theorem raiseFault_recordsFault (f : FaultCode) (info : Word) (s : State) :
    RecordsFault f info s (raiseFault f info s) := by
  obtain ⟨k, h⟩ := raiseFault_eq f info s
  rw [h]
  exact ⟨rfl, rfl, rfl⟩

theorem coreTurn_history {s t : State} (h : coreTurn s = .next t) :
    AppendsEvents s t ∨ ∃ f info, RecordsFault f info s t := by
  rcases coreTurn_cases h with ⟨i, k, -, h⟩ | ⟨f, w, k, -, rfl⟩ | ⟨k, -, rfl⟩ | ⟨k, -, h⟩ | ⟨k, -, h⟩
    | ⟨m, k, -, -, rfl⟩ | ⟨-, -, -, h⟩ | ⟨-, -, -, rfl⟩
  · exact .inl (exec_appendsEvents h).of_setCont
  · obtain ⟨hc, hf, ht⟩ := raiseFault_recordsFault f w (setCont k s)
    exact .inr ⟨f, w, hc, hf, ht⟩
  · exact .inl (afterCount_appendsEvents (setCont k s)).of_setCont
  · exact .inl (checkRead_appendsEvents h).of_setCont
  · exact .inl (rawRead_appendsEvents h).of_setCont
  · exact .inl (.of_trace_eq rfl rfl rfl)
  · exact .inl (exec_appendsEvents h)
  · exact .inl (.of_trace_eq rfl rfl rfl)

/-- A step appends events and no record, or one fault record with its event. -/
theorem step_history {s t : State} (h : step s = .next t) :
    AppendsEvents s t ∨ ∃ f info, RecordsFault f info s t := by
  rcases step_cases h with ⟨m, ms, -, -, rfl⟩ | ⟨ms, -, h⟩
  · obtain ⟨hcore, hcfg, -, -⟩ := agentMove_core m (setScript ms s)
    exact .inl (.of_trace_eq hcfg (by rw [hcore]; rfl) (by rw [hcore]; rfl))
  · rcases coreTurn_history h with ⟨hc, hf, ht⟩ | ⟨f, info, hc, hf, ht⟩
    · exact .inl ⟨hc, hf, ht⟩
    · exact .inr ⟨f, info, hc, hf, ht⟩

/-- Settles O59, by the two things a step can do to the history. -/
theorem historyOnlyGrows : Obligations.HistoryOnlyGrows := by
  intro s t h
  rcases step_history h with ⟨hc, hf, ht⟩ | ⟨f, info, hc, hf, ht⟩
  · exact ⟨hc, ht, .inl hf⟩
  · exact ⟨hc, ⟨[.fault f info], ht, by simp⟩, .inr ⟨f, info, hf, ht⟩⟩

end Sys2Proof.Proofs.Scope
end

section
/-! What an instruction and a step keep of the core's registers (spec/10_state.md R20): the rules the invariants of
this family share. -/

namespace Sys2Proof.Proofs.CoreState

open Sys2Proof Sys2Proof.Machine

/-- The parameters and the core's registers stay; the program, the trace and the locals may differ. -/
structure KeepsCore (s t : State) : Prop where
  cfg : t.cfg = s.cfg
  core : t.core = { s.core with cont := t.core.cont, trace := t.core.trace, locals := t.core.locals }

theorem KeepsCore.armed {s t : State} (h : KeepsCore s t) : t.core.armed = s.core.armed := by rw [h.core]
theorem KeepsCore.phase {s t : State} (h : KeepsCore s t) : t.core.phase = s.core.phase := by rw [h.core]
theorem KeepsCore.steps {s t : State} (h : KeepsCore s t) : t.core.steps = s.core.steps := by rw [h.core]
theorem KeepsCore.ctx {s t : State} (h : KeepsCore s t) : t.core.ctx = s.core.ctx := by rw [h.core]
theorem KeepsCore.saved {s t : State} (h : KeepsCore s t) : t.core.saved = s.core.saved := by rw [h.core]
theorem KeepsCore.imask {s t : State} (h : KeepsCore s t) : t.core.imask = s.core.imask := by rw [h.core]
theorem KeepsCore.faults {s t : State} (h : KeepsCore s t) : t.core.faults = s.core.faults := by rw [h.core]
theorem KeepsCore.unknownIrqCount {s t : State} (h : KeepsCore s t) :
    t.core.unknownIrqCount = s.core.unknownIrqCount := by rw [h.core]

theorem KeepsCore.trans {s t u : State} (h : KeepsCore s t) (h' : KeepsCore t u) : KeepsCore s u :=
  ⟨h'.cfg.trans h.cfg, by rw [h'.core, h.core]⟩

theorem keepsCore_setCont (k : List Item) (s : State) : KeepsCore s (setCont k s) := ⟨rfl, rfl⟩
theorem keepsCore_setScript (ms : List Move) (s : State) : KeepsCore s (setScript ms s) := ⟨rfl, rfl⟩
theorem keepsCore_call (is : List Item) (s : State) : KeepsCore s (call is s) := ⟨rfl, rfl⟩

theorem keepsCore_agentMove (m : Move) (s : State) : KeepsCore s (agentMove m s) := by
  obtain ⟨hcore, hcfg, -, -⟩ := agentMove_core m s
  exact ⟨hcfg, by rw [hcore]⟩

theorem keepsCore_of_calls {is : List Item} {s t : State} (h : Calls is s t) : KeepsCore s t :=
  ⟨Scope.onlyProgram_cfg h.1, congrArg State.core h.1⟩

theorem keepsCore_written (r : Reg) (v : Word) (s : State) : KeepsCore s (written r v s) :=
  ⟨written_cfg r v s, by rw [written_core]⟩

theorem keepsCore_handOver (s : State) : KeepsCore s (handOver s) := by
  rcases handOver_cases s with ⟨a, d, k, -, h⟩ | h <;> rw [h] <;> exact ⟨rfl, rfl⟩

theorem keepsCore_of_writes {s t : State} (h : Writes s t) : KeepsCore s t := by
  obtain ⟨r, v, -, rfl | ⟨-, rfl⟩⟩ := h
  · exact keepsCore_written r v s
  · exact (keepsCore_written r v s).trans (keepsCore_handOver _)

/-- A register write leaves the program, or takes off the hand-over mark (41 R126). -/
theorem cont_of_writes {s t : State} (h : Writes s t) :
    t.core.cont = s.core.cont ∨ ∃ a d, s.core.cont = .xactMark a d :: t.core.cont := by
  obtain ⟨r, v, -, rfl | ⟨-, rfl⟩⟩ := h
  · exact .inl (by rw [written_core])
  · rcases handOver_cases (written r v s) with ⟨a, d, k, hk, h⟩ | h
    · refine .inr ⟨a, d, ?_⟩
      rw [written_core] at hk
      simpa [h] using hk
    · exact .inl (by rw [h, written_core])

/-- The parameters and the sequencer's three registers stay. -/
structure KeepsSequencer (s t : State) : Prop where
  cfg : t.cfg = s.cfg
  armed : t.core.armed = s.core.armed
  phase : t.core.phase = s.core.phase
  steps : t.core.steps = s.core.steps

theorem KeepsCore.sequencer {s t : State} (h : KeepsCore s t) : KeepsSequencer s t :=
  ⟨h.cfg, h.armed, h.phase, h.steps⟩

/-- Only the four instructions that are about the sequencer's registers write them. -/
theorem exec_sequencer {i : Instr} {s t : State} (h : exec i s = .next t) :
    KeepsSequencer s t
    ∨ (i = .advancePhase ∧ t = { s with core.phase := nextPhase s.core.phase })
    ∨ (i = .countStep ∧ s.core.steps < Config.stepLimit ∧ t = { s with core.steps := s.core.steps + 1 })
    ∨ (i = .resetToIdle ∧ t = { s with core.steps := 0, core.phase := .p1, core.armed := false })
    ∨ (i = .arm ∧ s.core.armed = false ∧ t = call [.op (.timerProgram s.cfg.stepTicks .stepAdvance)]
        { s with core.steps := 0, core.phase := .p1, core.armed := true }) := by
  cases exec_effect h with
  | calls _ is _ hc => exact .inl (keepsCore_of_calls hc).sequencer
  | writes _ _ hw => exact .inl (keepsCore_of_writes hw).sequencer
  | faults _ f w _ hc => exact .inl (keepsCore_of_calls hc).sequencer
  | tickStep | excReturn | trapEntry | unknown | enable | disable => exact .inl ⟨rfl, rfl, rfl, rfl⟩
  | advancePhase => exact .inr (.inl ⟨rfl, rfl⟩)
  | countStep hs => exact .inr (.inr (.inl ⟨rfl, hs, rfl⟩))
  | resetToIdle => exact .inr (.inr (.inr (.inl ⟨rfl, rfl⟩)))
  | arm ha => exact .inr (.inr (.inr (.inr ⟨rfl, ha, rfl⟩)))

/-- What a step does at a place inside an operation, which is no row of the table: it calls plain statements, nothing
that may reset unless the place may itself, or it finds a fault that is then about to be raised. -/
inductive MarkEffect (s : State) (x : Item) (t : State) : Prop where
  | calls (is : List Item) (h : Calls is s t) (hp : ∀ y ∈ is, plainItem y = true)
      (hr : mayReset x = true ∨ ∀ y ∈ is, mayReset y = false)
  | faults (f : FaultCode) (w : Word) (h : Calls [.raise f w] s t) (hn : s.cfg.nackDetect = true)

theorem MarkEffect.keepsCore {s t : State} {x : Item} (h : MarkEffect s x t) : KeepsCore s t := by
  cases h with
  | calls is h => exact keepsCore_of_calls h
  | faults f w h => exact keepsCore_of_calls h

theorem checkRead_effect {s t : State} (x : Item) (h : checkRead s = .next t) : MarkEffect s x t := by
  obtain ⟨hn, h⟩ := checkRead_next h
  rcases checkTest_next h with rfl | rfl | rfl | rfl
  · exact .faults _ _ ⟨rfl, rfl, .inr (.inl ⟨_, _, rfl⟩)⟩ hn
  · exact .calls [] ⟨rfl, rfl, .inr (.inl ⟨_, _, rfl⟩)⟩ (by simp) (.inr (by simp))
  · exact .faults _ _ ⟨rfl, rfl, .inr (.inl ⟨_, _, rfl⟩)⟩ hn
  · exact .calls [.checkLoop] ⟨rfl, rfl, .inr (.inl ⟨_, _, rfl⟩)⟩ (plain_of_all rfl) (.inr (noReset_of_all rfl))

theorem rawRead_effect {s t : State} (x : Item) (h : rawRead s = .next t) : MarkEffect s x t := by
  rcases rawRead_next h with ⟨-, rfl⟩ | rfl
  · exact .calls [.rawLoop] ⟨rfl, rfl, .inl rfl⟩ (plain_of_all rfl) (.inr (noReset_of_all rfl))
  · exact .calls [.op (.rawOvf s.rawWord)] ⟨rfl, rfl, .inr (.inl ⟨_, _, rfl⟩)⟩ (plain_of_all rfl)
      (.inr (noReset_of_all rfl))

theorem afterCount_effect (s : State) : MarkEffect s .stepTail (afterCount s) := by
  unfold afterCount
  split
  · exact .calls [.op .tickBrake] ⟨rfl, rfl, .inl rfl⟩ (plain_of_all rfl) (.inl rfl)
  · exact .calls [.op (.timerProgram s.cfg.stepTicks .stepAdvance)] ⟨rfl, rfl, .inl rfl⟩ (plain_of_all rfl) (.inl rfl)

/-- The core's move, by the head of the program: an instruction, a fault raised, or a place inside an operation; and
with nothing to run, a delivery or no effect. -/
theorem coreTurn_head {s t : State} (h : coreTurn s = .next t) :
    (∃ i k, s.core.cont = .op i :: k ∧ exec i (setCont k s) = .next t)
    ∨ (∃ f w k, s.core.cont = .raise f w :: k ∧ t = raiseFault f w (setCont k s))
    ∨ (∃ x k, s.core.cont = x :: k ∧ isStepping x = false
        ∧ (bringsIdle x = true → x = .stepTail ∧ t = afterCount (setCont k s)) ∧ MarkEffect (setCont k s) x t)
    ∨ (s.core.cont = [] ∧ exec .trapEntry s = .next t)
    ∨ (s.core.cont = [] ∧ t = s) := by
  rcases coreTurn_cases h with ⟨i, k, hk, h⟩ | ⟨f, w, k, hk, rfl⟩ | ⟨k, hk, rfl⟩ | ⟨k, hk, h⟩ | ⟨k, hk, h⟩
    | ⟨m, k, hk, hm, rfl⟩ | ⟨hk, -, -, h⟩ | ⟨hk, -, -, rfl⟩
  · exact .inl ⟨i, k, hk, h⟩
  · exact .inr (.inl ⟨f, w, k, hk, rfl⟩)
  · exact .inr (.inr (.inl ⟨_, k, hk, rfl, fun _ => ⟨rfl, rfl⟩, afterCount_effect _⟩))
  · exact .inr (.inr (.inl ⟨_, k, hk, rfl, nofun, checkRead_effect _ h⟩))
  · exact .inr (.inr (.inl ⟨_, k, hk, rfl, nofun, rawRead_effect _ h⟩))
  · rcases hm with rfl | rfl | rfl | ⟨a, d, rfl⟩ <;>
      exact .inr (.inr (.inl ⟨_, k, hk, rfl, nofun, .calls [] ⟨rfl, rfl, .inl rfl⟩ (by simp) (.inr (by simp))⟩))
  · exact .inr (.inr (.inr (.inl ⟨hk, h⟩)))
  · exact .inr (.inr (.inr (.inr ⟨hk, rfl⟩)))

/-- A step, as far as the core's registers are concerned: it keeps them, runs an instruction, or raises a fault. -/
theorem step_core {s t : State} (h : step s = .next t) :
    KeepsCore s t
    ∨ (∃ i u, KeepsCore s u ∧ (s.core.cont = .op i :: u.core.cont ∨ i = .trapEntry) ∧ exec i u = .next t)
    ∨ (∃ f w u, KeepsCore s u ∧ t = raiseFault f w u) := by
  rcases step_cases h with ⟨m, ms, -, -, rfl⟩ | ⟨ms, -, h⟩
  · exact .inl ((keepsCore_setScript ms s).trans (keepsCore_agentMove m _))
  · rcases coreTurn_head h with ⟨i, k, hk, h⟩ | ⟨f, w, k, -, rfl⟩ | ⟨x, k, -, -, -, h⟩ | ⟨-, h⟩ | ⟨-, rfl⟩
    · exact .inr (.inl ⟨i, setCont k (setScript ms s), ⟨rfl, rfl⟩, .inl hk, h⟩)
    · exact .inr (.inr ⟨f, w, setCont k (setScript ms s), ⟨rfl, rfl⟩, rfl⟩)
    · exact .inl (((keepsCore_setScript ms s).trans (keepsCore_setCont k _)).trans h.keepsCore)
    · exact .inr (.inl ⟨.trapEntry, _, keepsCore_setScript ms s, .inr rfl, h⟩)
    · exact .inl (keepsCore_setScript ms s)

end Sys2Proof.Proofs.CoreState
end

section
/-! The shape of the program as far as the sequencer is concerned: `paired`, `resetsLast` and `idleDue` when statements
are put in front of a program, taken off it, or dropped by an error (spec/42_step_sequencer.md R142, R146, R149). -/

namespace Sys2Proof.Proofs.SequencerProgram

open Sys2Proof Sys2Proof.Machine

/-- No statement of the program advances or counts, in the model's own spelling. -/
def NoStepping (k : List Item) : Prop := k.all (fun y => !isStepping y) = true

theorem noStepping_iff (k : List Item) : NoStepping k ↔ ∀ y ∈ k, isStepping y = false := by
  simp [NoStepping]

theorem noStepping_append (is k : List Item) : NoStepping (is ++ k) ↔ NoStepping is ∧ NoStepping k := by
  simp [NoStepping]

theorem NoStepping.of_cons {x : Item} {k : List Item} (h : NoStepping (x :: k)) : isStepping x = false ∧ NoStepping k := by
  simpa [NoStepping] using h

theorem isStepping_iff (x : Item) : isStepping x = true ↔ x = .op .advancePhase ∨ x = .op .countStep := by
  unfold isStepping
  split <;> simp_all

theorem noStepping_of_plain {is : List Item} (h : ∀ x ∈ is, plainItem x = true) : NoStepping is := by
  refine (noStepping_iff is).mpr fun x hx => Bool.eq_false_iff.mpr fun hs => ?_
  have hplain : plainItem x = true := h x hx
  rcases (isStepping_iff x).mp hs with rfl | rfl <;> cases hplain

/-! ### The pair of ADVANCE_PHASE and COUNT_STEP -/

theorem paired_cons_iff {x : Item} (hx : isStepping x = false) (k : List Item) : paired (x :: k) ↔ paired k := by
  conv_lhs => unfold paired
  split <;> simp_all [isStepping]

theorem paired_advancePhase {k : List Item} (h : paired (.op .advancePhase :: k)) :
    ∃ k', k = .op .countStep :: .stepTail :: k' ∧ paired k' := by
  unfold paired at h
  split at h <;> simp_all

theorem not_paired_countStep (k : List Item) : ¬paired (.op .countStep :: k) := by
  simp [paired]

theorem pairedHere_countStep {k : List Item} (h : pairedHere (.op .countStep :: k)) :
    ∃ k', k = .stepTail :: k' ∧ paired k' := by
  unfold pairedHere at h
  split at h
  · next k' hk => cases hk; exact ⟨k', rfl, h⟩
  · exact absurd h (not_paired_countStep k)

theorem pairedHere_iff_paired {k : List Item} (h : midPair k = false) : pairedHere k ↔ paired k := by
  unfold pairedHere
  split
  · cases h
  · rfl

theorem midPair_cons {x : Item} (hx : isStepping x = false) (k : List Item) : midPair (x :: k) = false := by
  unfold midPair
  split <;> simp_all [isStepping]

theorem midPair_of_paired {k : List Item} (h : paired k) : midPair k = false := by
  unfold midPair
  split
  · exact absurd h (not_paired_countStep _)
  · rfl

theorem pairedHere_of_paired {k : List Item} (h : paired k) : pairedHere k :=
  (pairedHere_iff_paired (midPair_of_paired h)).mpr h

theorem paired_of_pairedHere_cons {x : Item} {k : List Item} (h : pairedHere (x :: k)) (hx : isStepping x = false) :
    paired k :=
  (paired_cons_iff hx k).mp ((pairedHere_iff_paired (midPair_cons hx k)).mp h)

theorem pairedHere_tail {x : Item} {k : List Item} (h : pairedHere (x :: k)) : pairedHere k := by
  cases hx : isStepping x with
  | false => exact pairedHere_of_paired (paired_of_pairedHere_cons h hx)
  | true =>
    rcases (isStepping_iff x).mp hx with rfl | rfl
    · obtain ⟨k', rfl, hk'⟩ := paired_advancePhase ((pairedHere_iff_paired rfl).mp h)
      exact hk'
    · obtain ⟨k', rfl, hk'⟩ := pairedHere_countStep h
      exact pairedHere_of_paired ((paired_cons_iff rfl k').mpr hk')

theorem pairedHere_of_append {a k : List Item} (h : pairedHere (a ++ k)) : pairedHere k := by
  induction a with
  | nil => exact h
  | cons x a ih => exact ih (pairedHere_tail h)

theorem paired_append {is k : List Item} (his : NoStepping is) (hk : paired k) : paired (is ++ k) := by
  induction is with
  | nil => exact hk
  | cons x is ih =>
    obtain ⟨hx, his⟩ := his.of_cons
    exact (paired_cons_iff hx _).mpr (ih his)

/-! ### What may reset comes last -/

theorem resetsLast_of_append {a k : List Item} (h : resetsLast (a ++ k)) : resetsLast k := by
  induction a with
  | nil => exact h
  | cons x a ih => exact ih h.2

theorem resetsLast_of_noStepping {k : List Item} (h : NoStepping k) : resetsLast k := by
  induction k with
  | nil => trivial
  | cons x k ih => exact ⟨fun _ => h.of_cons.2, ih h.of_cons.2⟩

/-- Statements that do not advance or count may be put in front of a program that does not either, and in front of any
program if they may not reset. -/
theorem resetsLast_append {is k : List Item} (his : NoStepping is)
    (hr : NoStepping k ∨ ∀ x ∈ is, mayReset x = false) (hk : resetsLast k) : resetsLast (is ++ k) := by
  rcases hr with hns | hr
  · exact resetsLast_of_noStepping ((noStepping_append is k).mpr ⟨his, hns⟩)
  · clear his
    induction is with
    | nil => exact hk
    | cons x is ih =>
      obtain ⟨hx, hr⟩ := List.forall_mem_cons.mp hr
      exact ⟨fun h => absurd h (by simp [hx]), ih hr⟩

/-! ### After an error -/

/-- What an error leaves is the program itself or the part behind a mark, after FAIL_STEP if the mark is a tick's. -/
theorem afterErr_program {k : List Item} (hp : paired k) (hr : resetsLast k) :
    paired (afterErr k) ∧ resetsLast (afterErr k) := by
  rcases afterErr_cases k with ⟨a, b, rfl, h⟩ | ⟨a, m, b, rfl, hm, h⟩ | h
  · have hb := paired_of_pairedHere_cons (pairedHere_of_append (pairedHere_of_paired hp)) rfl
    obtain ⟨hns, hb'⟩ := resetsLast_of_append hr
    rw [h]
    exact ⟨(paired_cons_iff rfl b).mpr hb, fun _ => hns rfl, hb'⟩
  · have hx : isStepping m = false := by rcases hm with rfl | rfl <;> rfl
    rw [h]
    exact ⟨paired_of_pairedHere_cons (pairedHere_of_append (pairedHere_of_paired hp)) hx,
      (resetsLast_of_append hr).2⟩
  · rw [h]
    exact ⟨hp, hr⟩

theorem noStepping_afterErr {k : List Item} (hk : NoStepping k) : NoStepping (afterErr k) := by
  rcases afterErr_cases k with ⟨a, b, rfl, h⟩ | ⟨a, m, b, rfl, -, h⟩ | h
  · rw [h]
    exact (noStepping_append [.op .failStep] b).mpr ⟨rfl, ((noStepping_append a _).mp hk).2.of_cons.2⟩
  · rw [h]
    exact ((noStepping_append a _).mp hk).2.of_cons.2
  · rwa [h]

/-! ### What brings Idle -/

theorem idleDue_cons_of_due {k : List Item} (h : idleDue k = (true, true)) (x : Item) :
    idleDue (x :: k) = (true, true) := by
  unfold idleDue
  split <;> simp [h]

theorem idleDue_append_of_due (is : List Item) {k : List Item} (h : idleDue k = (true, true)) :
    idleDue (is ++ k) = (true, true) := by
  induction is with
  | nil => exact h
  | cons x is ih => exact idleDue_cons_of_due ih x

theorem idleDue_tail {x : Item} {k : List Item} (h : (idleDue (x :: k)).1 = true) (hx : bringsIdle x = false) :
    idleDue k = (true, true) := by
  simp only [idleDue, hx, Bool.false_or, Bool.and_eq_true] at h
  exact Prod.ext h.1 h.2

/-- The second half of `idleDue` speaks of the place an error goes to. -/
theorem idleDue_snd (k : List Item) : (idleDue k).2 = (toCatch k).any (fun k' => (idleDue k').1) := by
  induction k with
  | nil => rfl
  | cons x k ih =>
    by_cases hf : x = .catchFail
    · subst hf; rfl
    · by_cases hb : x = .catchBoot
      · subst hb; rfl
      · simpa only [idleDue, toCatch] using ih

theorem idleDue_afterErr {k : List Item} (h : (idleDue k).2 = true) : (idleDue (afterErr k)).1 = true := by
  rw [idleDue_snd] at h
  obtain ⟨k', hk', hdue⟩ := (Option.any_eq_true _ _).mp h
  simpa [afterErr, hk'] using hdue

end Sys2Proof.Proofs.SequencerProgram
end

section
/-! The sequencer invariant (spec/10_state.md R24, R26): every step keeps it (O49). -/

namespace Sys2Proof.Proofs.SequencerKept

open Sys2Proof Sys2Proof.Machine
open Sys2Proof.Proofs.CoreState Sys2Proof.Proofs.SequencerProgram

/-- The sequencer invariant outside the pair, but for the step limit: it holds once the head of the program is taken
off, and every statement that only calls or drops others keeps it. -/
structure Settled (s : State) : Prop where
  pairs : paired s.core.cont
  resets : resetsLast s.core.cont
  bound : s.core.steps ≤ Config.stepLimit
  phase : s.core.phase.toNat = s.core.steps % 4 + 1
  idle : s.core.armed = false → s.core.steps = 0 ∧ NoStepping s.core.cont

/-- With SameTick at the step limit, Idle is due whatever happens, errors included. -/
def IdleAssured (s : State) : Prop :=
  s.cfg.brakeTick = .sameTick → s.core.steps = Config.stepLimit → idleDue s.core.cont = (true, true)

theorem Settled.coherent {s : State} (h : Settled s) (hb : BrakesInSameTick s) : SequencerCoherent s := by
  obtain ⟨hpaired, hlast, hbound, hphase, hidle⟩ := h
  refine ⟨⟨pairedHere_of_paired hpaired, hlast⟩, hbound, hb, ?_, hidle⟩
  rw [PhaseTracksSteps, midPair_of_paired hpaired]
  exact hphase

theorem settled_of_coherent {s : State} (hs : SequencerCoherent s) (hmid : midPair s.core.cont = false) :
    Settled s := by
  obtain ⟨⟨hpaired, hlast⟩, hbound, -, hphase, hidle⟩ := hs
  rw [PhaseTracksSteps, hmid] at hphase
  exact ⟨(pairedHere_iff_paired hmid).mp hpaired, hlast, hbound, hphase, hidle⟩

/-- The same registers over another program of the shape. -/
theorem Settled.of_program {s t : State} (hs : Settled s) (hk : KeepsSequencer s t)
    (hp : paired s.core.cont → paired t.core.cont) (hl : resetsLast s.core.cont → resetsLast t.core.cont)
    (hn : NoStepping s.core.cont → NoStepping t.core.cont) : Settled t := by
  obtain ⟨-, harmed, hphase, hsteps⟩ := hk
  refine ⟨hp hs.pairs, hl hs.resets, by rw [hsteps]; exact hs.bound, by rw [hphase, hsteps]; exact hs.phase,
    fun ha => ?_⟩
  obtain ⟨hzero, hns⟩ := hs.idle (harmed ▸ ha)
  exact ⟨hsteps ▸ hzero, hn hns⟩

theorem IdleAssured.of_program {s t : State} (hs : IdleAssured s) (hk : KeepsSequencer s t)
    (hd : idleDue s.core.cont = (true, true) → (idleDue t.core.cont).1 = true) : BrakesInSameTick t :=
  fun hsame hlimit => hd (hs (hk.cfg ▸ hsame) (hk.steps ▸ hlimit))

theorem Settled.drop {x : Item} {s t : State} (hs : Settled s) (hk : KeepsSequencer s t)
    (hc : s.core.cont = x :: t.core.cont) (hx : isStepping x = false) : Settled t := by
  refine hs.of_program hk ?_ ?_ ?_ <;> rw [hc]
  · exact (paired_cons_iff hx _).mp
  · exact And.right
  · exact fun hns => hns.of_cons.2

theorem IdleAssured.drop {x : Item} {s t : State} (hs : IdleAssured s) (hk : KeepsSequencer s t)
    (hc : s.core.cont = x :: t.core.cont) (hx : bringsIdle x = false) : BrakesInSameTick t := by
  refine hs.of_program hk fun hdue => ?_
  rw [hc] at hdue
  rw [idleDue_tail (congrArg Prod.fst hdue) hx]

theorem Settled.push {is : List Item} {s t : State} (hs : Settled s) (hk : KeepsSequencer s t)
    (hc : t.core.cont = is ++ s.core.cont) (his : NoStepping is)
    (hr : NoStepping s.core.cont ∨ ∀ x ∈ is, mayReset x = false) : Settled t := by
  refine hs.of_program hk ?_ ?_ ?_ <;> rw [hc]
  · exact paired_append his
  · exact resetsLast_append his hr
  · exact fun hns => (noStepping_append is _).mpr ⟨his, hns⟩

theorem IdleAssured.push {is : List Item} {s t : State} (hs : IdleAssured s) (hk : KeepsSequencer s t)
    (hc : t.core.cont = is ++ s.core.cont) : BrakesInSameTick t :=
  hs.of_program hk fun hdue => by rw [hc, idleDue_append_of_due is hdue]

theorem coherent_of_call {is : List Item} {u : State} (hu : Settled u) (his : NoStepping is)
    (hr : NoStepping u.core.cont ∨ ∀ x ∈ is, mayReset x = false) (hb : BrakesInSameTick (call is u)) :
    SequencerCoherent (call is u) :=
  Settled.coherent (hu.push (t := call is u) ⟨rfl, rfl, rfl, rfl⟩ rfl his hr) hb

/-- What the invariant says once the head of the program, not half a pair, is taken off. -/
theorem settled_behind {x : Item} {k : List Item} {s : State} (hs : SequencerCoherent s)
    (hc : s.core.cont = x :: k) (hx : isStepping x = false) : Settled (setCont k s) :=
  (settled_of_coherent hs (hc ▸ midPair_cons hx k)).drop ⟨rfl, rfl, rfl, rfl⟩ hc hx

theorem assured_behind {x : Item} {k : List Item} {s : State} (hs : SequencerCoherent s)
    (hc : s.core.cont = x :: k) (hx : bringsIdle x = false) : IdleAssured (setCont k s) := by
  obtain ⟨-, -, hb, -, -⟩ := hs
  exact fun hsame hlimit => idleDue_tail (hc ▸ hb hsame hlimit) hx

theorem noStepping_behind {x : Item} {k : List Item} {s : State} (hs : SequencerCoherent s)
    (hc : s.core.cont = x :: k) (hx : mayReset x = true) : NoStepping k := by
  obtain ⟨⟨-, hlast⟩, -, -, -, -⟩ := hs
  rw [hc] at hlast
  exact hlast.1 hx

theorem brakes_of_steps_lt {s : State} (h : s.core.steps < Config.stepLimit) : BrakesInSameTick s :=
  fun _ hlimit => absurd hlimit (Nat.ne_of_lt h)

/-! ### The statements that bring Idle -/

theorem bringsIdle_op_iff (i : Instr) :
    bringsIdle (.op i) = true ↔ i = .resetToIdle ∨ i = .failStep ∨ i = .tickBrake := by
  cases i <;> simp [bringsIdle]

/-- RESET_TO_IDLE, FAIL_STEP and TICK_BRAKE: Idle at once, or the statement that brings it comes first. -/
theorem exec_bringsIdle_coherent {i : Instr} {u t : State} (hu : Settled u) (hns : NoStepping u.core.cont)
    (hi : bringsIdle (.op i) = true) (h : exec i u = .next t) : SequencerCoherent t := by
  rcases (bringsIdle_op_iff i).mp hi with rfl | rfl | rfl <;> cases h
  · exact Settled.coherent ⟨hu.pairs, hu.resets, Nat.zero_le _, rfl, fun _ => ⟨rfl, hns⟩⟩
      (brakes_of_steps_lt (show 0 < Config.stepLimit by decide))
  · exact coherent_of_call hu rfl (.inl hns) fun _ _ => rfl
  · exact coherent_of_call hu rfl (.inl hns) fun _ _ => rfl

/-- The test after COUNT_STEP: with SameTick at the limit TICK_BRAKE comes next (42 R146). -/
theorem afterCount_coherent {u : State} (hu : Settled u) (hns : NoStepping u.core.cont) :
    SequencerCoherent (afterCount u) := by
  unfold afterCount
  split
  · exact coherent_of_call hu rfl (.inl hns) fun _ _ => rfl
  · next hne =>
    exact coherent_of_call hu rfl (.inl hns) fun hsame hlimit => absurd ⟨hsame, hlimit⟩ hne

/-! ### The pair -/

theorem nextPhase_toNat (p : Phase) : (nextPhase p).toNat = p.toNat % 4 + 1 := by
  cases p <;> rfl

theorem advancePhase_coherent {k : List Item} {s : State} (hs : SequencerCoherent s)
    (hc : s.core.cont = .op .advancePhase :: k) :
    SequencerCoherent { setCont k s with core.phase := nextPhase s.core.phase } := by
  obtain ⟨⟨hpaired, hlast⟩, hbound, hbrakes, hphase, hidle⟩ := hs
  rw [hc] at hpaired hlast
  obtain ⟨k', rfl, hk'⟩ := paired_advancePhase hpaired
  rw [PhaseTracksSteps, hc] at hphase
  refine ⟨⟨hk', hlast.2⟩, hbound, fun hsame hlimit => ?_, ?_, fun ha => ?_⟩
  · have hdue := hbrakes hsame hlimit
    rw [hc] at hdue
    exact congrArg Prod.fst (idleDue_tail hdue rfl)
  · change (nextPhase s.core.phase).toNat = (s.core.steps + 1) % 4 + 1
    rw [nextPhase_toNat, show s.core.phase.toNat = s.core.steps % 4 + 1 from hphase]
    omega
  · obtain ⟨-, hns⟩ := hidle ha
    rw [hc] at hns
    cases hns

theorem countStep_coherent {k : List Item} {s : State} (hs : SequencerCoherent s)
    (hc : s.core.cont = .op .countStep :: k) (hlt : s.core.steps < Config.stepLimit) :
    SequencerCoherent { setCont k s with core.steps := s.core.steps + 1 } := by
  obtain ⟨⟨hpaired, hlast⟩, -, -, hphase, hidle⟩ := hs
  rw [hc] at hpaired hlast
  obtain ⟨k', rfl, hk'⟩ := pairedHere_countStep hpaired
  rw [PhaseTracksSteps, hc] at hphase
  refine Settled.coherent ⟨(paired_cons_iff rfl k').mpr hk', hlast.2, hlt, hphase, fun ha => ?_⟩ fun _ _ => rfl
  obtain ⟨-, hns⟩ := hidle ha
  rw [hc] at hns
  cases hns

/-- TICK_STEP puts the pair in front of a program that neither advances nor counts (42 R142). -/
theorem tickStep_coherent {u : State} (hu : Settled u) (hns : NoStepping u.core.cont) (ha : u.core.armed = true)
    (hlt : u.core.steps < Config.stepLimit) :
    SequencerCoherent
      (call [.op (.emitPhase u.core.phase), .op .advancePhase, .op .countStep, .stepTail, .catchFail] u) := by
  refine Settled.coherent ⟨hu.pairs, ?_, hu.bound, hu.phase, fun h => ?_⟩ (brakes_of_steps_lt hlt)
  · exact ⟨nofun, nofun, nofun, fun _ => hns, fun _ => hns, hu.resets⟩
  · exact absurd (ha.symm.trans h) (by decide)

theorem arm_coherent {u : State} (hu : Settled u) :
    SequencerCoherent (call [.op (.timerProgram u.cfg.stepTicks .stepAdvance)]
      { u with core.steps := 0, core.phase := .p1, core.armed := true }) :=
  Settled.coherent
    ⟨(paired_cons_iff rfl _).mpr hu.pairs, ⟨nofun, hu.resets⟩, Nat.zero_le _, rfl, nofun⟩
    (brakes_of_steps_lt (show 0 < Config.stepLimit by decide))

/-! ### Every step -/

/-- Pushing statements that neither advance nor count onto a settled program whose Idle is assured. -/
theorem coherent_of_push {is : List Item} {u t : State} (hu : Settled u) (ha : IdleAssured u)
    (hk : KeepsSequencer u t) (hc : t.core.cont = is ++ u.core.cont) (his : NoStepping is)
    (hr : NoStepping u.core.cont ∨ ∀ x ∈ is, mayReset x = false) : SequencerCoherent t :=
  (hu.push hk hc his hr).coherent (ha.push hk hc)

theorem coherent_of_writes {u t : State} (hu : Settled u) (ha : IdleAssured u) (h : Writes u t) :
    SequencerCoherent t := by
  have hk : KeepsSequencer u t := (keepsCore_of_writes h).sequencer
  rcases cont_of_writes h with hc | ⟨a, d, hc⟩
  · exact coherent_of_push (is := []) hu ha hk hc rfl (.inr (by simp))
  · exact (hu.drop hk hc rfl).coherent (ha.drop hk hc rfl)

theorem exec_coherent {i : Instr} {k : List Item} {s t : State} (hs : SequencerCoherent s)
    (hc : s.core.cont = .op i :: k) (h : exec i (setCont k s) = .next t) : SequencerCoherent t := by
  have hlast : mayReset (.op i) = true → NoStepping k := noStepping_behind hs hc
  have hset : isStepping (.op i) = false → Settled (setCont k s) := settled_behind hs hc
  cases hb : bringsIdle (.op i) with
  | true =>
    have hi : mayReset (.op i) = true ∧ isStepping (.op i) = false := by
      rcases (bringsIdle_op_iff i).mp hb with rfl | rfl | rfl <;> exact ⟨rfl, rfl⟩
    exact exec_bringsIdle_coherent (hset hi.2) (hlast hi.1) hb h
  | false =>
    have hassured : IdleAssured (setCont k s) := assured_behind hs hc hb
    cases exec_effect h with
    | calls _ is _ hcalls hp hr hi =>
      exact coherent_of_push (hset hi) hassured ((keepsCore_of_calls hcalls).sequencer) hcalls.2.1
        (noStepping_of_plain hp) (hr.imp_left hlast)
    | writes _ _ hw hi => exact coherent_of_writes (hset hi) hassured hw
    | faults _ f w _ hcalls _ hi =>
      exact coherent_of_push (hset hi) hassured ((keepsCore_of_calls hcalls).sequencer) hcalls.2.1 rfl
        (.inr (noReset_of_all rfl))
    | tickStep ha hlt => exact tickStep_coherent (hset rfl) (hlast rfl) ha hlt
    | advancePhase => exact advancePhase_coherent hs hc
    | countStep hlt => exact countStep_coherent hs hc hlt
    | resetToIdle => cases hb
    | arm => exact arm_coherent (hset rfl)
    | excReturn | enable | disable =>
      exact coherent_of_push (is := []) (hset rfl) hassured ⟨rfl, rfl, rfl, rfl⟩ rfl rfl (.inr (by simp))
    | trapEntry =>
      exact coherent_of_push (is := [.op .dispatch]) (hset rfl) hassured ⟨rfl, rfl, rfl, rfl⟩ rfl rfl
        (.inl (hlast rfl))
    | unknown w =>
      exact coherent_of_push (is := [.raise .unknownInterrupt w]) (hset rfl) hassured ⟨rfl, rfl, rfl, rfl⟩ rfl rfl
        (.inr (noReset_of_all rfl))

/-- With nothing to run the program holds no half of a pair, and the step limit is not reached under SameTick. -/
theorem settled_of_nil {s : State} (hs : SequencerCoherent s) (hc : s.core.cont = []) :
    Settled s ∧ IdleAssured s := by
  refine ⟨settled_of_coherent hs (hc ▸ rfl), fun hsame hlimit => ?_⟩
  obtain ⟨-, -, hbrakes, -, -⟩ := hs
  have hdue := hbrakes hsame hlimit
  rw [hc] at hdue
  cases hdue

theorem raiseFault_cont (f : FaultCode) (w : Word) (s : State) :
    (raiseFault f w s).core.cont = if f.returnsErr then afterErr s.core.cont else s.core.cont := by
  cases f <;> rfl

theorem raiseFault_coherent {f : FaultCode} {w : Word} {u : State} (hu : Settled u) (ha : IdleAssured u) :
    SequencerCoherent (raiseFault f w u) := by
  have hk : KeepsSequencer u (raiseFault f w u) := by
    obtain ⟨k, h⟩ := raiseFault_eq f w u
    rw [h]
    exact ⟨rfl, rfl, rfl, rfl⟩
  have hc := raiseFault_cont f w u
  split at hc
  · obtain ⟨hpaired, hlast⟩ := afterErr_program hu.pairs hu.resets
    refine (hu.of_program hk ?_ ?_ ?_).coherent (ha.of_program hk fun hdue => ?_) <;> rw [hc]
    · exact fun _ => hpaired
    · exact fun _ => hlast
    · exact noStepping_afterErr
    · exact idleDue_afterErr (congrArg Prod.snd hdue)
  · exact coherent_of_push (is := []) hu ha hk hc rfl (.inr (by simp))

theorem coherent_of_markEffect {x : Item} {k : List Item} {s t : State} (hs : SequencerCoherent s)
    (hc : s.core.cont = x :: k) (hx : isStepping x = false) (hb : bringsIdle x = false)
    (h : MarkEffect (setCont k s) x t) : SequencerCoherent t := by
  have hu : Settled (setCont k s) := settled_behind hs hc hx
  have ha : IdleAssured (setCont k s) := assured_behind hs hc hb
  have hk : KeepsSequencer (setCont k s) t := h.keepsCore.sequencer
  cases h with
  | calls is hcalls hp hr =>
    exact coherent_of_push hu ha hk hcalls.2.1 (noStepping_of_plain hp)
      (hr.imp_left (noStepping_behind hs hc))
  | faults f w hcalls => exact coherent_of_push hu ha hk hcalls.2.1 rfl (.inr (noReset_of_all rfl))

theorem coreTurn_coherent {s t : State} (hs : SequencerCoherent s) (h : coreTurn s = .next t) :
    SequencerCoherent t := by
  rcases coreTurn_head h with ⟨i, k, hk, h⟩ | ⟨f, w, k, hk, rfl⟩ | ⟨x, k, hk, hx, hbr, h⟩ | ⟨hk, h⟩ | ⟨-, rfl⟩
  · exact exec_coherent hs hk h
  · exact raiseFault_coherent (settled_behind hs hk rfl) (assured_behind hs hk rfl)
  · cases hb : bringsIdle x with
    | true =>
      obtain ⟨rfl, rfl⟩ := hbr hb
      exact afterCount_coherent (settled_behind hs hk hx) (noStepping_behind hs hk rfl)
    | false => exact coherent_of_markEffect hs hk hx hb h
  · obtain ⟨hset, hassured⟩ := settled_of_nil hs hk
    obtain ⟨-, -, rfl⟩ := trap_next.mp h
    exact coherent_of_push (is := [.op .dispatch]) hset hassured ⟨rfl, rfl, rfl, rfl⟩ rfl rfl (.inl (hk ▸ rfl))
  · exact hs

theorem coherent_of_same_program {s t : State} (hs : SequencerCoherent s) (hk : KeepsSequencer s t)
    (hc : t.core.cont = s.core.cont) : SequencerCoherent t := by
  obtain ⟨hcfg, harmed, hphase, hsteps⟩ := hk
  simpa only [SequencerCoherent, ProgramShaped, BrakesInSameTick, PhaseTracksSteps, IdleIsReset, hcfg, harmed,
    hphase, hsteps, hc] using hs

theorem step_coherent {s t : State} (hs : SequencerCoherent s) (h : step s = .next t) : SequencerCoherent t := by
  rcases step_cases h with ⟨m, ms, -, -, rfl⟩ | ⟨ms, -, h⟩
  · obtain ⟨hcore, -, -, -⟩ := agentMove_core m (setScript ms s)
    exact coherent_of_same_program hs
      ((keepsCore_setScript ms s).trans (keepsCore_agentMove m _)).sequencer (by rw [hcore]; rfl)
  · exact coreTurn_coherent (s := setScript ms s) hs h

/-- Settles O49: the core's move on the head of the program keeps the invariant, and the agents touch none of it. -/
theorem sequencerCoherentKept : Obligations.SequencerCoherentKept := fun _ _ hs h => step_coherent hs h

end Sys2Proof.Proofs.SequencerKept
end

section
/-! The context, the saved context and the mask (spec/10_state.md R29, 60_exceptions.md R212): every step keeps them
together (O52). -/

namespace Sys2Proof.Proofs.ContextKept

open Sys2Proof Sys2Proof.Machine
open Sys2Proof.Proofs.CoreState

theorem contextCoherent_of_keeps {s t : State} (hs : ContextCoherent s) (hk : KeepsCore s t) : ContextCoherent t := by
  simpa only [ContextCoherent, hk.ctx, hk.saved, hk.imask] using hs

theorem deliverable_main {s : State} (h : s.deliverable = true) : s.core.ctx = .main := by
  simp only [State.deliverable, Bool.and_eq_true, beq_iff_eq] at h
  exact h.1.2

theorem contextCoherent_takeTrap (s : State) : ContextCoherent (takeTrap s) :=
  ⟨nofun, nofun, fun _ => ⟨rfl, _, rfl, rfl⟩⟩

/-- Entering Main with nothing saved. -/
theorem contextCoherent_of_main {t : State} (hc : t.core.ctx = .main) (hs : t.core.saved = none) :
    ContextCoherent t := by
  refine ⟨fun h => ?_, fun _ => hs, fun h => ?_⟩ <;> rw [hc] at h <;> cases h

/-- Masking alone changes nothing the invariant asks for. -/
theorem contextCoherent_masked {s : State} (hs : ContextCoherent s) :
    ContextCoherent { s with core.imask := true } := by
  obtain ⟨hboot, hmain, hhandler⟩ := hs
  exact ⟨fun h => ⟨(hboot h).1, rfl⟩, hmain, fun h => ⟨rfl, (hhandler h).2⟩⟩

theorem saved_none_of_not_handler {s : State} (hs : ContextCoherent s) (hc : s.core.ctx ≠ .handler) :
    s.core.saved = none := by
  obtain ⟨hboot, hmain, -⟩ := hs
  cases h : s.core.ctx with
  | boot => exact (hboot h).1
  | main => exact hmain h
  | handler => exact absurd h hc

theorem exec_contextCoherent {i : Instr} {s t : State} (hs : ContextCoherent s) (h : exec i s = .next t) :
    ContextCoherent t := by
  cases exec_effect h with
  | calls _ is _ hc => exact contextCoherent_of_keeps hs (keepsCore_of_calls hc)
  | writes _ _ hw => exact contextCoherent_of_keeps hs (keepsCore_of_writes hw)
  | faults _ f w _ hc => exact contextCoherent_of_keeps hs (keepsCore_of_calls hc)
  | tickStep | advancePhase | countStep | resetToIdle | arm | unknown => exact hs
  | excReturn c hc => exact contextCoherent_of_main rfl rfl
  | trapEntry => exact contextCoherent_takeTrap s
  | enable hc => exact contextCoherent_of_main rfl (saved_none_of_not_handler (s := s) hs hc)
  | disable => exact contextCoherent_masked hs

theorem raiseFault_contextCoherent (f : FaultCode) (w : Word) {s : State} (hs : ContextCoherent s) :
    ContextCoherent (raiseFault f w s) := by
  obtain ⟨k, h⟩ := raiseFault_eq f w s
  rw [h]
  exact hs

/-- Settles O52: only a delivery, the exception return, and the two mask operations write the context or the mask. -/
theorem contextCoherentKept : Obligations.ContextCoherentKept := by
  intro s t hs h
  rcases step_core h with hk | ⟨i, u, hk, -, h⟩ | ⟨f, w, u, hk, rfl⟩
  · exact contextCoherent_of_keeps hs hk
  · exact exec_contextCoherent (contextCoherent_of_keeps hs hk) h
  · exact raiseFault_contextCoherent f w (contextCoherent_of_keeps hs hk)

end Sys2Proof.Proofs.ContextKept
end

section
/-! The fault log and the counter in Faithful (spec/10_state.md R44, 00_scope.md R9): every step keeps them (O56). -/

namespace Sys2Proof.Proofs.FaultFreeKept

open Sys2Proof Sys2Proof.Machine
open Sys2Proof.Proofs.CoreState

theorem faithful_iff (c : Params) :
    Faithful c = true ↔ c.unknownIrqPolicy = .twoWay ∧ c.pollBudget = none ∧ c.nackDetect = false := by
  simp [Faithful, and_assoc]

theorem noRaise_append (is k : List Item) : noRaise (is ++ k) = (noRaise is && noRaise k) :=
  List.all_append

theorem noRaise_of_plain {is : List Item} (h : ∀ x ∈ is, plainItem x = true) : noRaise is = true := by
  refine List.all_eq_true.mpr fun x hx => ?_
  have hplain : plainItem x = true := h x hx
  split
  · cases hplain
  · rfl

theorem noRaise_tail {x : Item} {k : List Item} (h : noRaise (x :: k) = true) : noRaise k = true :=
  (Bool.and_eq_true_iff.mp h).2

theorem faultFree_of_program {s t : State} (hs : FaultFree s) (hk : KeepsCore s t)
    (hc : noRaise t.core.cont = true) : FaultFree t := by
  obtain ⟨hfaithful, -, hfaults, hcount⟩ := hs
  exact ⟨by rwa [hk.cfg], hc, by rwa [hk.faults], by rwa [hk.unknownIrqCount]⟩

theorem faultFree_of_calls {is : List Item} {s t : State} (hs : FaultFree s) (h : Calls is s t)
    (hp : ∀ x ∈ is, plainItem x = true) : FaultFree t := by
  have ⟨_, hraise, _, _⟩ := hs
  refine faultFree_of_program hs (keepsCore_of_calls h) ?_
  rw [h.2.1, noRaise_append, noRaise_of_plain hp, hraise]
  rfl

theorem faultFree_of_writes {s t : State} (hs : FaultFree s) (h : Writes s t) : FaultFree t := by
  have ⟨_, hraise, _, _⟩ := hs
  refine faultFree_of_program hs (keepsCore_of_writes h) ?_
  rcases cont_of_writes h with hc | ⟨a, d, hc⟩
  · rwa [hc]
  · rw [hc] at hraise
    exact noRaise_tail hraise

/-- In Faithful no instruction finds a fault: there is no budget, no NACK test and no unknown source. -/
theorem exec_faultFree {i : Instr} {s t : State} (hs : FaultFree s) (h : exec i s = .next t) : FaultFree t := by
  have ⟨hfaithful, _, _, _⟩ := hs
  obtain ⟨hpolicy, hbudget, hnack⟩ := (faithful_iff s.cfg).mp hfaithful
  cases exec_effect h with
  | calls _ is _ hc hp => exact faultFree_of_calls hs hc hp
  | writes _ _ hw => exact faultFree_of_writes hs hw
  | faults _ f w _ _ hn => simp [hbudget, hnack] at hn
  | unknown w hflag => rw [hpolicy] at hflag; cases hflag
  | tickStep | advancePhase | countStep | resetToIdle | arm | excReturn | trapEntry | enable | disable => exact hs

theorem markEffect_faultFree {x : Item} {s t : State} (hs : FaultFree s) (h : MarkEffect s x t) : FaultFree t := by
  have ⟨hfaithful, _, _, _⟩ := hs
  obtain ⟨-, -, hnack⟩ := (faithful_iff s.cfg).mp hfaithful
  cases h with
  | calls is hc hp => exact faultFree_of_calls hs hc hp
  | faults f w _ hn => rw [hnack] at hn; cases hn

theorem faultFree_behind {x : Item} {k : List Item} {s : State} (hs : FaultFree s) (hc : s.core.cont = x :: k) :
    FaultFree (setCont k s) := by
  obtain ⟨hfaithful, hraise, hfaults, hcount⟩ := hs
  rw [hc] at hraise
  exact ⟨hfaithful, noRaise_tail hraise, hfaults, hcount⟩

theorem coreTurn_faultFree {s t : State} (hs : FaultFree s) (h : coreTurn s = .next t) : FaultFree t := by
  rcases coreTurn_head h with ⟨i, k, hk, h⟩ | ⟨f, w, k, hk, rfl⟩ | ⟨x, k, hk, -, -, h⟩ | ⟨-, h⟩ | ⟨-, rfl⟩
  · exact exec_faultFree (faultFree_behind hs hk) h
  · obtain ⟨-, hraise, -, -⟩ := hs
    rw [hk] at hraise
    cases hraise
  · exact markEffect_faultFree (faultFree_behind hs hk) h
  · exact exec_faultFree hs h
  · exact hs

/-- Settles O56: in Faithful no fault is ever about to be raised, and nothing else writes the log or the counter. -/
theorem faultFreeKept : Obligations.FaultFreeKept := by
  intro s t hs h
  rcases step_cases h with ⟨m, ms, -, -, rfl⟩ | ⟨ms, -, h⟩
  · obtain ⟨hcore, hcfg, -, -⟩ := agentMove_core m (setScript ms s)
    rw [FaultFree, hcore, hcfg]
    exact hs
  · exact coreTurn_faultFree (s := setScript ms s) hs h

end Sys2Proof.Proofs.FaultFreeKept
end

section
/-! Who counts and who arms (spec/10_state.md R26 (a), R27; O51, O60), the step on the core's move (R28; O5, O6), and the
core state after reset (R46; O40). -/

namespace Sys2Proof.Proofs.CoreMoves

open Sys2Proof Sys2Proof.Machine
open Sys2Proof.Proofs.CoreState Sys2Proof.Proofs.SequencerProgram

theorem raiseFault_steps (f : FaultCode) (w : Word) (s : State) : (raiseFault f w s).core.steps = s.core.steps := by
  obtain ⟨k, h⟩ := raiseFault_eq f w s
  rw [h]

/-- The step count leaves its value for a nonzero one only by COUNT_STEP, at the head of the program. -/
theorem step_counts {s t : State} (h : step s = .next t) (hne : t.core.steps ≠ s.core.steps) (hnz : t.core.steps ≠ 0) :
    (∃ k, s.core.cont = .op .countStep :: k) ∧ t.core.steps = s.core.steps + 1 := by
  rcases step_core h with hk | ⟨i, u, hk, hhead, h⟩ | ⟨f, w, u, hk, rfl⟩
  · exact absurd hk.steps hne
  · rw [← hk.steps] at hne ⊢
    rcases exec_sequencer h with hkeeps | ⟨-, rfl⟩ | ⟨rfl, -, rfl⟩ | ⟨-, rfl⟩ | ⟨-, -, rfl⟩
    · exact absurd hkeeps.steps hne
    · exact absurd rfl hne
    · exact ⟨⟨_, hhead.resolve_right (by decide)⟩, rfl⟩
    · exact absurd rfl hnz
    · exact absurd rfl hnz
  · exact absurd ((raiseFault_steps f w u).trans hk.steps) hne

/-- Settles O51: COUNT_STEP alone counts, and while Idle none is in the program. -/
theorem stepsAdvanceOnlyArmed : Obligations.StepsAdvanceOnlyArmed := by
  intro s t hs h hne hnz
  obtain ⟨⟨k, hk⟩, hcount⟩ := step_counts h hne hnz
  obtain ⟨-, -, -, -, hidle⟩ := hs
  refine ⟨Bool.eq_true_of_not_eq_false fun ha => ?_, hcount⟩
  have hns : NoStepping s.core.cont := (hidle ha).2
  rw [hk] at hns
  cases hns

/-- Where the flag keeps its value nothing is asked. -/
theorem unchanged_arms_nothing {a b : Bool} {p q : Prop} (h : b = a) :
    (a = false → b = true → p) ∧ (a = true → b = false → q) := by
  subst h
  exact ⟨fun hf ht => absurd (hf.symm.trans ht) (by decide), fun ht hf => absurd (ht.symm.trans hf) (by decide)⟩

/-- Settles O60, by the four instructions that write the sequencer's registers. -/
theorem onlyArmArms : Obligations.OnlyArmArms := by
  intro i s t h
  rcases exec_sequencer h with hkeeps | ⟨rfl, rfl⟩ | ⟨rfl, -, rfl⟩ | ⟨rfl, rfl⟩ | ⟨rfl, hidle, rfl⟩
  · exact unchanged_arms_nothing hkeeps.armed
  · exact unchanged_arms_nothing rfl
  · exact unchanged_arms_nothing rfl
  · exact ⟨nofun, fun _ _ => rfl⟩
  · exact ⟨fun _ _ => ⟨rfl, rfl, rfl⟩, nofun⟩

/-! ### Whose move it is -/

theorem step_core_move {s : State} {ms : List Move} (h : s.env.script = .core :: ms) :
    step s = coreTurn (setScript ms s) := by
  simp only [step, turn, h]

theorem step_quiet {s : State} (h : s.env.script = []) : step s = coreTurn s := by
  simp only [step, turn, h]

theorem step_agent_move {s : State} {m : Move} {ms : List Move} (h : s.env.script = m :: ms) (hm : m ≠ .core) :
    step s = .next (agentMove m (setScript ms s)) := by
  cases m with
  | core => exact absurd rfl hm
  | _ => simp only [step, turn, h]

theorem coreTurn_op {s : State} {i : Instr} {k : List Item} (h : s.core.cont = .op i :: k) :
    coreTurn s = exec i (setCont k s) := by
  simp only [coreTurn, h]

theorem coreTurn_unlisted {s : State} {nbits w : Nat} {k : List Item} (h : s.core.cont = .unlisted nbits w :: k) :
    coreTurn s = .refused (.undecodable nbits w) := by
  simp only [coreTurn, h]

/-- Laying a word adds its statement and one core move; taking both off gives the state back. -/
theorem step_withFetchWord (s : State) (nbits w : Nat) :
    step (s.withFetchWord nbits w) = coreTurn (setCont (tableItem nbits w :: s.core.cont) s) :=
  step_core_move (ms := s.env.script) rfl

/-- Settles O5: the laid word stands at the head of the program, and the next move is the core's. -/
theorem stepRunsLaidWord : Obligations.StepRunsLaidWord := by
  refine ⟨fun s nbits w i hi => ?_, fun s nbits w hn => ?_⟩ <;> rw [step_withFetchWord]
  · exact coreTurn_op (k := s.core.cont) (by simp [tableItem, hi])
  · exact coreTurn_unlisted (k := s.core.cont) (by simp [tableItem, hn])

/-- Settles O6, by whose move the script gives. -/
theorem stepRunsProgramHead : Obligations.StepRunsProgramHead := by
  refine ⟨fun s i k hs hk => ?_, fun s i k ms hs hk => ?_, fun s m ms hs hm => step_agent_move hs hm⟩
  · rw [step_quiet hs]
    exact coreTurn_op hk
  · rw [step_core_move hs]
    exact coreTurn_op (s := setScript ms s) hk

/-- Settles O40: each value as R46 gives it. -/
theorem resetCoreState : Obligations.ResetCoreState :=
  ⟨rfl, rfl, rfl, rfl, rfl, rfl, rfl, rfl, rfl⟩

end Sys2Proof.Proofs.CoreMoves
end

section
/-! The sequencer invariant at a main-context boundary and along a commanded run (spec/10_state.md R26,
70_reset_and_hazards.md R252; O50). -/

namespace Sys2Proof.Proofs.SequencerMain

open Sys2Proof Sys2Proof.Machine
open Sys2Proof.Proofs.CoreState Sys2Proof.Proofs.SequencerProgram Sys2Proof.Proofs.SequencerKept

/-! ### At a boundary -/

theorem phase_eq_p1 {p : Phase} (h : p.toNat = 1) : p = .p1 := by
  cases p with
  | p1 => rfl
  | p2 | p3 | p4 => cases h

theorem coherent_at_main {s : State} (hs : SequencerCoherent s) (hm : AtMain s) :
    s.core.phase.toNat = s.core.steps % 4 + 1 ∧ s.core.steps ≤ 200
    ∧ (s.cfg.brakeTick = .sameTick → s.core.steps ≠ 200)
    ∧ (s.core.armed = false → s.core.steps = 0 ∧ s.core.phase = .p1) := by
  obtain ⟨-, hnil⟩ := hm
  obtain ⟨hset, hassured⟩ := settled_of_nil hs hnil
  refine ⟨hset.phase, hset.bound, fun hsame hlimit => ?_, fun ha => ?_⟩
  · have hdue := hassured hsame hlimit
    rw [hnil] at hdue
    cases hdue
  · obtain ⟨hzero, -⟩ := hset.idle ha
    have hphase := hset.phase
    rw [hzero] at hphase
    exact ⟨hzero, phase_eq_p1 hphase⟩

/-- The idle loop at the step limit, which NextTick allows until the next tick (42 R146). -/
def nextTickAtLimit : State :=
  { State.reset with
    cfg.brakeTick := .nextTick
    core.ctx := .main
    core.cont := []
    core.armed := true
    core.steps := 200 }

theorem nextTickAtLimit_coherent : SequencerCoherent nextTickAtLimit :=
  Settled.coherent ⟨trivial, trivial, Nat.le_refl 200, rfl, nofun⟩ nofun

/-! ### Along a run -/

/-- The machine can step from `s` to `t`. -/
def Reaches : State → State → Prop := Relation.ReflTransGen fun s t => step s = .next t

theorem Reaches.coherent {s t : State} (h : Reaches s t) (hs : SequencerCoherent s) : SequencerCoherent t := by
  induction h with
  | refl => exact hs
  | tail _ hstep ih => exact step_coherent ih hstep

/-- The trace only grows along a run. -/
theorem Reaches.trace {s t : State} (h : Reaches s t) : ∃ es, t.core.trace = s.core.trace ++ es := by
  induction h with
  | refl => exact ⟨[], (List.append_nil _).symm⟩
  | tail _ hstep ih =>
    obtain ⟨es, hes⟩ := ih
    obtain ⟨-, ⟨es', hes', -⟩, -⟩ := Scope.historyOnlyGrows _ _ hstep
    exact ⟨es ++ es', by rw [hes', hes, List.append_assoc]⟩

theorem toArm_reaches {m : Nat} {s a : State} (h : toArm m s = some a) : Reaches s a ∧ atArm a = true := by
  induction m generalizing s with
  | zero =>
    unfold toArm at h
    split at h
    · next ha => cases h; exact ⟨.refl, ha⟩
    · cases h
  | succ m ih =>
    unfold toArm at h
    split at h
    · next ha => cases h; exact ⟨.refl, ha⟩
    · split at h
      · next u hu =>
        split at h
        · obtain ⟨hreach, ha⟩ := ih h
          exact ⟨.head hu hreach, ha⟩
        · cases h
      · cases h

theorem firstIdle_reaches {n : Nat} {s t : State} (h : firstIdle n s = some t) :
    Reaches s t ∧ idleBoundary t = true := by
  induction n generalizing s with
  | zero => cases h
  | succ n ih =>
    unfold firstIdle at h
    split at h
    · next u hu =>
      split at h
      · next hb => cases h; exact ⟨.single hu, hb⟩
      · obtain ⟨hreach, hb⟩ := ih h
        exact ⟨.head hu hreach, hb⟩
    · cases h

theorem idleBoundary_iff (s : State) : idleBoundary s = true ↔ AtMain s ∧ s.core.armed = false := by
  simp [idleBoundary, AtMain]

theorem atArm_spec {s : State} (h : atArm s = true) :
    s.core.armed = false ∧ ∃ k, s.core.cont = .op .arm :: k := by
  simp only [atArm, Bool.and_eq_true, Bool.not_eq_true'] at h
  obtain ⟨⟨-, harmed⟩, hhead⟩ := h
  refine ⟨harmed, ?_⟩
  split at hhead
  · next k hk => exact ⟨k, hk⟩
  · cases hhead

theorem atDelivery_spec {s : State} (h : atDelivery s = true) :
    coreMoves s = true ∧ s.core.cont = [] ∧ s.deliverable = true := by
  simpa [atDelivery, and_assoc] using h

/-- Where the next move is the core's, the step is its turn. -/
theorem step_of_coreMoves {s : State} (h : coreMoves s = true) : ∃ ms, step s = coreTurn (setScript ms s) := by
  unfold coreMoves at h
  split at h
  · next hs => exact ⟨[], by rw [CoreMoves.step_quiet hs, ← hs]; rfl⟩
  · next ms hs => exact ⟨ms, CoreMoves.step_core_move hs⟩
  · cases h

/-- With nothing to run and an interrupt deliverable, the core takes it (60 R207). -/
theorem coreTurn_delivers {s : State} (hc : s.core.cont = []) (hd : s.deliverable = true) :
    coreTurn s = exec .trapEntry s := by
  simp only [coreTurn, hc, idle, ContextKept.deliverable_main hd, hd, if_true]

/-- The step of a delivery appends ENTRY (60 R209). -/
theorem delivery_trace {s u : State} (h : atDelivery s = true) (hu : step s = .next u) :
    u.core.trace = s.core.trace ++ [.entry] := by
  obtain ⟨hmoves, hnil, hd⟩ := atDelivery_spec h
  obtain ⟨ms, hstep⟩ := step_of_coreMoves hmoves
  rw [hstep, coreTurn_delivers (s := setScript ms s) hnil hd] at hu
  obtain ⟨-, -, rfl⟩ := trap_next.mp hu
  rfl

/-- A commanded run begins with the step of its delivery, which is not itself the ARM step. -/
theorem commandedRun_reaches {b a t : State} (h : CommandedRun b a t) :
    (∃ u, step b = .next u ∧ Reaches u a) ∧ atArm a = true ∧ Reaches a t ∧ idleBoundary t = true := by
  obtain ⟨hdel, ⟨m, hm⟩, n, hn⟩ := h
  obtain ⟨hba, ha⟩ := toArm_reaches hm
  obtain ⟨hat, ht⟩ := firstIdle_reaches hn
  refine ⟨?_, ha, hat, ht⟩
  rcases Relation.ReflTransGen.cases_head hba with rfl | hfirst
  · obtain ⟨-, k, hk⟩ := atArm_spec ha
    obtain ⟨-, hnil, -⟩ := atDelivery_spec hdel
    rw [hnil] at hk
    cases hk
  · exact hfirst

/-- Settles O50: the invariant read at an empty program, and carried along the steps of a run. -/
theorem sequencerAtMain : Obligations.SequencerAtMain := by
  refine ⟨fun s hs hm => coherent_at_main hs hm,
    ⟨nextTickAtLimit, nextTickAtLimit_coherent, ⟨rfl, rfl⟩, rfl, rfl, rfl⟩, fun b a t hs hrun => ?_⟩
  have ⟨hdel, _, _⟩ := hrun
  obtain ⟨⟨u, hbu, hua⟩, harm, hat, hidle⟩ := commandedRun_reaches hrun
  have hut : Reaches u t := Relation.ReflTransGen.trans hua hat
  obtain ⟨hmain, harmed⟩ := (idleBoundary_iff t).mp hidle
  obtain ⟨-, -, -, hzero⟩ := coherent_at_main (hut.coherent (step_coherent hs hbu)) hmain
  obtain ⟨hsteps, hphase⟩ := hzero harmed
  obtain ⟨-, -, hd⟩ := atDelivery_spec hdel
  obtain ⟨harma, -⟩ := atArm_spec harm
  obtain ⟨es, hes⟩ := hut.trace
  refine ⟨ContextKept.deliverable_main hd, harma, hmain, harmed, hsteps, hphase, es, ?_⟩
  simp [observation, hes, delivery_trace hdel hbu]

end Sys2Proof.Proofs.SequencerMain
end

section
/-! The reset state meets the invariants, and its parameters the spec's constraints whatever the free constants are
(spec/10_state.md R46, 00_scope.md R8; O58). -/

namespace Sys2Proof.Proofs.ResetInvariants

open Sys2Proof Sys2Proof.Machine
open Sys2Proof.Proofs.SequencerKept

/-! ### The launch parameters -/

theorem launch_srcWordTimer : Config.launch.srcWordTimer.bit 2 = false := by
  simp [Config.launch, Word.bit]

theorem launch_srcWordGpio : Config.launch.srcWordGpio.bit 2 = true := by
  simp [Config.launch, Word.bit]

theorem ptX_ok : Config.ptX.ok 0x10#8 0x00#8 = true := by decide

theorem launch_phaseTable :
    Config.launch.phaseTable.ok Config.launch.highVal Config.launch.lowVal = true := by
  unfold Config.launch
  by_cases h : Config.openPhaseTable.ok Config.openHighVal Config.openLowVal = true
  · simp only [if_pos h]
    exact h
  · simp only [if_neg h]
    exact ptX_ok

theorem launch_pwmSetupSeq : ∀ p ∈ Config.launch.pwmSetupSeq, p.1 ∈ setupRegs := by
  intro p hp
  simpa using (List.mem_filter.mp hp).2

theorem launch_ovfieValue : Config.launch.ovfieValue ≠ 0#32 := by
  unfold Config.launch
  by_cases h : Config.openOvfie = 0#32
  · simp [h]
  · simp only [if_neg h]
    exact h

theorem launch_statusBits :
    Config.launch.nackBit.val ≠ 12 ∧ Config.launch.doneBit.val ≠ 12
      ∧ Config.launch.nackBit ≠ Config.launch.doneBit := by
  unfold Config.launch
  by_cases h : Config.openNackBit.val ≠ 12 ∧ Config.openDoneBit.val ≠ 12 ∧ Config.openNackBit ≠ Config.openDoneBit
  · simp only [if_pos h]
    exact h
  · simp only [if_neg h]
    decide

theorem someAddrs_ok : Config.someAddrs.ok .abstract = true := by decide

theorem launch_addrs : Config.launch.addrs.ok Config.launch.byteDelayMode = true := by
  unfold Config.launch
  by_cases h : Config.openAddrs.ok .abstract = true
  · simp only [if_pos h]
    exact h
  · simp only [if_neg h]
    exact someAddrs_ok

/-- Every constraint of `Params.ok`; the default budget is none. -/
theorem launch_ok : Config.launch.ok = true := by
  have hbudget : Config.launch.pollBudget = none := rfl
  obtain ⟨hnack, hdone, hdistinct⟩ := launch_statusBits
  simp only [Params.ok, hbudget, Bool.and_eq_true, Bool.not_eq_true', bne_iff_ne, List.all_eq_true,
    List.contains_iff_mem, true_and, and_assoc]
  exact ⟨launch_srcWordTimer, launch_srcWordGpio, launch_phaseTable, launch_pwmSetupSeq, launch_ovfieValue,
    hnack, hdone, hdistinct, launch_addrs⟩

/-! ### The invariants -/

theorem reset_sequencerCoherent : SequencerCoherent State.reset :=
  Settled.coherent ⟨trivial, ⟨nofun, nofun, nofun, nofun, nofun, nofun, trivial⟩, Nat.zero_le _, rfl,
    fun _ => ⟨rfl, rfl⟩⟩ nofun

theorem reset_contextCoherent : ContextCoherent State.reset :=
  ⟨fun _ => ⟨rfl, rfl⟩, nofun, nofun⟩

theorem reset_faultFree : FaultFree State.reset := ⟨rfl, rfl, rfl, rfl⟩

/-- Settles O58: with an empty trace and nothing in progress each invariant is read off the reset values. -/
theorem resetMeetsInvariants : Obligations.ResetMeetsInvariants :=
  ⟨reset_sequencerCoherent, reset_contextCoherent, fun h => absurd rfl h, reset_faultFree, nofun,
    ⟨launch_ok, rfl, rfl⟩, launch_ok⟩

end Sys2Proof.Proofs.ResetInvariants
end

section
/-! The decoder and the encoder are inverse to each other on the rows of spec/30_encoding.md section 3: one lemma per
kind of row, then the equivalence `decode_ok_iff`, from which both round trips are read off (O1, O2, O3). -/

namespace Sys2Proof.Proofs.RoundTrip

open Sys2Proof Sys2Proof.Machine

/-! ### The checks of the register words that have one (30_encoding.md R91, R92) -/

@[simp] theorem wellFormed_dispatchTimer (c : Params) (w : Word) :
    (Instr.dispatchTimer w).WellFormed c = (!w.bit Config.srcSelectBit && c.recognises w) := rfl

@[simp] theorem wellFormed_dispatchGpio (c : Params) (w : Word) :
    (Instr.dispatchGpio w).WellFormed c = (w.bit Config.srcSelectBit && c.recognises w) := rfl

@[simp] theorem wellFormed_dispatchUnknown (c : Params) (w : Word) :
    (Instr.dispatchUnknown w).WellFormed c = !c.recognises w := rfl

@[simp] theorem wellFormed_busy (c : Params) (v : Word) : (Instr.busy v).WellFormed c = v.bit Config.bbBit := rfl

@[simp] theorem wellFormed_free (c : Params) (v : Word) : (Instr.free v).WellFormed c = !v.bit Config.bbBit := rfl

@[simp] theorem wellFormed_intcMasken (c : Params) (v : Word) :
    (Instr.intcMasken v).WellFormed c = (v == c.maskenTimerValue || v == c.maskenGpioValue) := rfl

@[simp] theorem wellFormed_rawOvf (c : Params) (v : Word) :
    (Instr.rawOvf v).WellFormed c = (c.byteDelayMode == .timer && v.bit c.ovfBit) := rfl

/-! ### The rows of each kind of word -/

theorem wholeRow_eq_some {p w : Word} {j i : Instr} : wholeRow p j w = some i ↔ w = p ∧ j = i := by
  simp [wholeRow]

theorem conRow_eq_some {w : Word} {i : Instr} :
    conRow w = some i ↔ (w = Config.conXferWord ∧ .conXfer = i) ∨ (w = Config.conInitWord ∧ .conInit = i) := by
  unfold conRow
  by_cases hx : w = Config.conXferWord
  · subst hx
    simp [show Config.conXferWord ≠ Config.conInitWord by decide]
  · simp [hx]

theorem dataRow_eq_some {w : Word} {i : Instr} : dataRow w = some i ↔ ∃ b, w = dataWord b ∧ .dataByte b = i := by
  constructor
  · intro h
    simp only [dataRow, Option.ite_none_right_eq_some, Option.some.injEq] at h
    exact ⟨lowByte w, h⟩
  · rintro ⟨b, rfl, rfl⟩
    exact dataRow_dataWord b

theorem recognises_eq_false {c : Params} {w : Word} :
    c.recognises w = false ↔ c.unknownIrqPolicy = .flag ∧ w ≠ c.srcWordTimer ∧ w ≠ c.srcWordGpio := by
  cases hp : c.unknownIrqPolicy <;> simp [Params.recognises, hp]

/-- The source rows, told apart as the table does it: recognised or not (R92), and then bit 2 alone (R81). -/
theorem srcRow_eq (c : Params) (w : Word) :
    srcRow c w =
      bif !c.recognises w then .dispatchUnknown w
      else bif w.bit Config.srcSelectBit then .dispatchGpio w else .dispatchTimer w := by
  unfold srcRow classifySrc
  simp only [← recognises_eq_false]
  cases c.recognises w <;> cases w.bit Config.srcSelectBit <;> rfl

theorem srcRow_spec (c : Params) (w : Word) :
    (srcRow c w).WellFormed c = true ∧ encode c (srcRow c w) = some (.reg .intcActive w) := by
  rw [srcRow_eq]
  cases hr : c.recognises w
  · exact ⟨by simp [hr], rfl⟩
  · cases hb : w.bit Config.srcSelectBit <;> exact ⟨by simp [hr, hb], rfl⟩

theorem statRow_spec (c : Params) (v : Word) :
    (statRow v).WellFormed c = true ∧ encode c (statRow v) = some (.reg .i2cStat v) := by
  unfold statRow
  cases hb : v.bit Config.bbBit <;> exact ⟨by simp [hb], rfl⟩

/-! ### Register words -/

/-- The row of a word at a register is well-formed and is encoded as that word at that register. -/
theorem encode_of_regRow {c : Params} {r : Reg} {w : Word} {i : Instr} (h : regRow c r w = some i) :
    i.WellFormed c = true ∧ encode c i = some (.reg r w) := by
  cases r with
  | intcActive => cases h; exact srcRow_spec c w
  | i2cStat => cases h; exact statRow_spec c w
  | i2cCon => rcases conRow_eq_some.mp h with ⟨rfl, rfl⟩ | ⟨rfl, rfl⟩ <;> exact ⟨rfl, rfl⟩
  | i2cData => obtain ⟨b, rfl, rfl⟩ := dataRow_eq_some.mp h; exact ⟨rfl, rfl⟩
  | timerReload => cases h; exact ⟨rfl, rfl⟩
  | intcMasken =>
    simp only [regRow, Option.ite_none_right_eq_some, Option.some.injEq] at h
    obtain ⟨hw, rfl⟩ := h
    exact ⟨by simpa using hw, rfl⟩
  | timerRawstat =>
    simp only [regRow, Option.ite_none_right_eq_some, Option.some.injEq] at h
    obtain ⟨hw, rfl⟩ := h
    exact ⟨by simpa using hw, rfl⟩
  | i2cCnt | i2cIe | i2cOa | i2cSa | gpioFalldet | gpioStatclr | intcReset | intcNewirq | timerReset | timerStatclr
  | timerOvfie =>
    obtain ⟨rfl, rfl⟩ := wholeRow_eq_some.mp h
    exact ⟨rfl, rfl⟩

/-- A well-formed row encoded at a register is the row of its word there. -/
theorem regRow_of_encode {c : Params} {r : Reg} {w : Word} {i : Instr} (hw : i.WellFormed c = true)
    (h : encode c i = some (.reg r w)) : regRow c r w = some i := by
  cases i with
  | dispatchTimer v | dispatchGpio v | dispatchUnknown v =>
    cases h
    simp only [wellFormed_dispatchTimer, wellFormed_dispatchGpio, wellFormed_dispatchUnknown, Bool.and_eq_true,
      Bool.not_eq_true'] at hw
    simp [regRow, srcRow_eq, hw]
  | busy v | free v =>
    cases h
    simp only [wellFormed_busy, wellFormed_free, Bool.not_eq_true'] at hw
    simp [regRow, statRow, hw]
  | conXfer | conInit | cnt2 | ieXrdy | reloadWord => cases h; rfl
  | dataByte b => cases h; exact dataRow_dataWord b
  | gpioClr | timerClr | newirqAck | i2cOa | i2cSa | gpioFalldet | intcReset | timerReset | timerOvfie =>
    cases h
    exact wholeRow_eq_some.mpr ⟨rfl, rfl⟩
  | intcMasken v | rawOvf v =>
    cases h
    simp only [wellFormed_intcMasken, wellFormed_rawOvf, Bool.or_eq_true, Bool.and_eq_true, beq_iff_eq] at hw
    simp [regRow, hw]
  | _ => cases h

/-! ### Transactions -/

theorem encode_of_xactRow {c : Params} {a d : Byte} {i : Instr} (h : xactRow a d = some i) :
    encode c i = some (.xact a d) := by
  unfold xactRow at h
  repeat' (rw [ite_eq_iff] at h; rcases h with ⟨rfl, h⟩ | ⟨-, h⟩)
  all_goals cases h <;> rfl

theorem xactRow_of_encode {c : Params} {a d : Byte} {i : Instr} (h : encode c i = some (.xact a d)) :
    xactRow a d = some i := by
  cases i <;> cases h <;> rfl

/-! ### Both round trips -/

theorem decode_reg_ok_iff {c : Params} {r : Reg} {w : Word} {i : Instr} :
    decode c (.reg r w) = .ok i ↔ regRow c r w = some i := by
  simp only [decode]
  cases regRow c r w <;> simp

theorem decode_xact_ok_iff {c : Params} {a d : Byte} {i : Instr} :
    decode c (.xact a d) = .ok i ↔ xactRow a d = some i ∧ i.WellFormed c = true := by
  simp only [decode]
  cases xactRow a d with
  | none => simp
  | some j =>
    constructor
    · intro h
      dsimp only at h
      split_ifs at h with hw
      cases h
      exact ⟨rfl, hw⟩
    · rintro ⟨⟨⟩, hw⟩
      exact if_pos hw

/-- A code decodes to a row exactly when the row is well-formed and stands for that code (R91, R92). -/
theorem decode_ok_iff {c : Params} {k : Code} {i : Instr} :
    decode c k = .ok i ↔ i.WellFormed c = true ∧ encode c i = some k := by
  cases k with
  | reg r w =>
    rw [decode_reg_ok_iff]
    exact ⟨encode_of_regRow, fun ⟨hw, he⟩ => regRow_of_encode hw he⟩
  | xact a d =>
    rw [decode_xact_ok_iff]
    exact ⟨fun ⟨hr, hw⟩ => ⟨hw, encode_of_xactRow hr⟩, fun ⟨hw, he⟩ => ⟨xactRow_of_encode he, hw⟩⟩

/-- Settles O1: the backward direction of the equivalence. -/
theorem decodeOfEncode : Obligations.DecodeOfEncode := fun _ _ _ hw he => decode_ok_iff.mpr ⟨hw, he⟩

/-- Settles O2: the forward direction of the equivalence. -/
theorem encodeOfDecode : Obligations.EncodeOfDecode := fun _ _ _ h => decode_ok_iff.mp h

theorem recognises_of_twoWay {c : Params} (h : c.unknownIrqPolicy = .twoWay) (w : Word) : c.recognises w = true := by
  simp [Params.recognises, h]

/-- Settles O3: each word is the encoding of its row, and each row is well-formed. -/
theorem listedWordsDecode : Obligations.ListedWordsDecode := by
  intro c
  simp only [decode_ok_iff]
  refine ⟨⟨rfl, rfl⟩, ⟨rfl, rfl⟩, ⟨rfl, rfl⟩, ⟨rfl, rfl⟩, ⟨rfl, rfl⟩, ⟨rfl, rfl⟩, ⟨rfl, rfl⟩, ⟨rfl, rfl⟩, ⟨rfl, rfl⟩,
    ⟨rfl, rfl⟩, fun h => ⟨⟨?_, rfl⟩, ⟨?_, rfl⟩⟩⟩
  · exact Bool.and_eq_true_iff.mpr ⟨rfl, recognises_of_twoWay h _⟩
  · exact Bool.and_eq_true_iff.mpr ⟨rfl, recognises_of_twoWay h _⟩

end Sys2Proof.Proofs.RoundTrip
end

section
/-! What the rows leave out is refused (spec/30_encoding.md R93; O4): words by the decoder and by RegWrite, transactions
by the decoder and by the refusal mark (60_exceptions.md R200). Which transactions are listed is said once. -/

namespace Sys2Proof.Proofs.Unlisted

open Sys2Proof Sys2Proof.Machine
open Sys2Proof.Proofs.RoundTrip

/-! ### Register words -/

theorem decode_reg_error_iff {c : Params} {r : Reg} {w : Word} :
    decode c (.reg r w) = .error (.unlistedWord r w) ↔ regRow c r w = none := by
  simp only [decode]
  cases regRow c r w <;> simp

theorem wholeRow_eq_none {p w : Word} {j : Instr} : wholeRow p j w = none ↔ w ≠ p := by
  simp [wholeRow]

theorem conRow_eq_none {w : Word} : conRow w = none ↔ w ≠ Config.conXferWord ∧ w ≠ Config.conInitWord := by
  simp [conRow, ite_eq_iff]

/-- A word with a bit above the low byte is no DATA word (R86). -/
theorem dataRow_eq_none {w : Word} (h : 256 ≤ w.toNat) : dataRow w = none := by
  refine Option.eq_none_iff_forall_ne_some.mpr fun i hi => ?_
  obtain ⟨b, rfl, -⟩ := dataRow_eq_some.mp hi
  have hb : (dataWord b).toNat = b.toNat := BitVec.toNat_setWidth_of_le (by decide)
  have := b.isLt
  omega

theorem rawstatRow_eq_none {c : Params} {w : Word} (h : c.byteDelayMode = .abstract ∨ w.getLsbD c.ovfBit = false) :
    regRow c .timerRawstat w = none := by
  refine if_neg ?_
  rintro ⟨hmode, hbit⟩
  rcases h with h | h
  · exact absurd (h.symm.trans hmode) (by decide)
  · exact absurd (h.symm.trans hbit) (by decide)

theorem regWrite_refused {r : Reg} {v : Word} {s : State} (h : accepts s.cfg r v = false) :
    regWrite r v s = .refused (.unlistedWord r v) := by
  simp [regWrite, h]

theorem accepts_of_regRow_none {c : Params} {r : Reg} {v : Word} (h : regRow c r v = none) : accepts c r v = false := by
  simp [accepts, h]

theorem accepts_of_not_writable {c : Params} {r : Reg} {v : Word} (h : writable r = false) : accepts c r v = false := by
  simp [accepts, h]

/-! ### Transactions -/

theorem listedXact_iff_decode {c : Params} {a d : Byte} : listedXact c a d = true ↔ ∃ i, decode c (.xact a d) = .ok i := by
  unfold listedXact
  cases decode c (.xact a d) <;> simp

theorem decode_xact_error_iff {c : Params} {a d : Byte} :
    decode c (.xact a d) = .error (.unlistedXact a d) ↔ listedXact c a d = false := by
  simp only [listedXact, decode]
  cases xactRow a d with
  | none => simp
  | some i => cases hi : i.WellFormed c <;> simp [hi]

/-- The transactions the XACT rows list: a channel register with one of the two data bytes, a setup register with any,
and the two brake pairs (R91). -/
theorem listedXact_iff {c : Params} {a d : Byte} :
    listedXact c a d = true ↔
      (a ∈ channelRegs ∧ c.isDrive d = true) ∨ a ∈ setupRegs ∨ (a = 0xFD#8 ∧ (d = 0x10#8 ∨ d = 0x00#8)) := by
  simp only [listedXact_iff_decode, decode_ok_iff]
  constructor
  · rintro ⟨i, hw, he⟩
    cases i with
    | phaseCh17 | phaseCh13 | phaseCh1b | phaseCh1f => cases he; exact .inl ⟨by decide, hw⟩
    | brakeAllOff => cases he; exact .inr (.inr ⟨rfl, .inl rfl⟩)
    | brakeRelease => cases he; exact .inr (.inr ⟨rfl, .inr rfl⟩)
    | setupMode1 | setupPrescale | setupMode2 | setupCh0f | setupCh23 => cases he; exact .inr (.inl (by decide))
    | _ => cases he
  · rintro (⟨ha, hd⟩ | ha | ⟨rfl, rfl | rfl⟩)
    · simp only [channelRegs, List.mem_cons, List.not_mem_nil, or_false] at ha
      rcases ha with rfl | rfl | rfl | rfl
      · exact ⟨.phaseCh17 d, hd, rfl⟩
      · exact ⟨.phaseCh13 d, hd, rfl⟩
      · exact ⟨.phaseCh1b d, hd, rfl⟩
      · exact ⟨.phaseCh1f d, hd, rfl⟩
    · simp only [setupRegs, List.mem_cons, List.not_mem_nil, or_false] at ha
      rcases ha with rfl | rfl | rfl | rfl | rfl
      · exact ⟨.setupMode1 d, rfl, rfl⟩
      · exact ⟨.setupPrescale d, rfl, rfl⟩
      · exact ⟨.setupMode2 d, rfl, rfl⟩
      · exact ⟨.setupCh0f d, rfl, rfl⟩
      · exact ⟨.setupCh23 d, rfl, rfl⟩
    · exact ⟨.brakeAllOff, rfl, rfl⟩
    · exact ⟨.brakeRelease, rfl, rfl⟩

theorem decode_outside_rows {c : Params} {a d : Byte} (ha : a ∉ channelRegs ++ setupRegs)
    (hbrake : ¬(a = 0xFD#8 ∧ (d = 0x10#8 ∨ d = 0x00#8))) : decode c (.xact a d) = .error (.unlistedXact a d) := by
  rw [List.mem_append, not_or] at ha
  rw [decode_xact_error_iff, Bool.eq_false_iff, Ne, listedXact_iff]
  rintro (⟨h, -⟩ | h | h)
  · exact ha.1 h
  · exact ha.2 h
  · exact hbrake h

theorem channelReg_only {a : Byte} (h : a ∈ channelRegs) : a ∉ setupRegs ∧ a ≠ 0xFD#8 :=
  (by decide : ∀ a ∈ channelRegs, a ∉ setupRegs ∧ a ≠ 0xFD#8) a h

theorem decode_undriven {c : Params} {a d : Byte} (ha : a ∈ channelRegs) (hhigh : d ≠ c.highVal) (hlow : d ≠ c.lowVal) :
    decode c (.xact a d) = .error (.unlistedXact a d) := by
  obtain ⟨hsetup, hbrake⟩ := channelReg_only ha
  rw [decode_xact_error_iff, Bool.eq_false_iff, Ne, listedXact_iff]
  rintro (⟨-, h⟩ | h | ⟨h, -⟩)
  · simp [Params.isDrive, hhigh, hlow] at h
  · exact hsetup h
  · exact hbrake h

/-! ### The refusal mark -/

theorem refusalMark_iff (s : State) :
    s.refusalMark = true ↔ ∃ a d, .xact a d ∈ s.core.trace ∧ listedXact s.cfg a d = false := by
  simp only [State.refusalMark, xactLog, List.any_eq_true, List.mem_filterMap, Prod.exists, Bool.not_eq_true']
  constructor
  · rintro ⟨a, d, ⟨e, he, hx⟩, h⟩
    cases e <;> cases hx
    exact ⟨a, d, he, h⟩
  · rintro ⟨a, d, he, h⟩
    exact ⟨a, d, ⟨_, he, rfl⟩, h⟩

/-- The mark is read off a trace that only grows, under parameters that stay. -/
theorem step_refusalMark {s t : State} (h : step s = .next t) (hs : s.refusalMark = true) : t.refusalMark = true := by
  obtain ⟨hcfg, ⟨es, htrace, -⟩, -⟩ := Scope.historyOnlyGrows s t h
  obtain ⟨a, d, hmem, hlisted⟩ := (refusalMark_iff s).mp hs
  exact (refusalMark_iff t).mpr ⟨a, d, by rw [htrace]; exact List.mem_append_left _ hmem, by rwa [hcfg]⟩

/-- DATA_WRITE at a hand-over mark: the write, and the transaction of the mark (41 R125, R126). -/
theorem dataWrite_at_mark {s : State} {a d : Byte} {k : List Item} (b : Byte) (h : s.core.cont = .xactMark a d :: k) :
    exec (.dataWrite b) s = .next (emit (.xact a d) (setCont k (written .i2cData (dataWord b) s))) := by
  have hcont : (written .i2cData (dataWord b) s).core.cont = .xactMark a d :: k := by rw [written_core]; exact h
  refine (putByte_eq b s).trans ?_
  simp only [handOver, hcont]

theorem dataWrite_sets_mark {s : State} {a d : Byte} {k : List Item} (b : Byte) (h : s.core.cont = .xactMark a d :: k)
    (hx : listedXact s.cfg a d = false) : ∃ t, exec (.dataWrite b) s = .next t ∧ t.refusalMark = true := by
  refine ⟨_, dataWrite_at_mark b h, (refusalMark_iff _).mpr ⟨a, d, by simp, ?_⟩⟩
  rwa [emit_cfg, setCont_cfg, written_cfg]

/-- Settles O4: each clause is that a word has no row at its register, or that a transaction is not listed. -/
theorem unlistedWordsRefused : Obligations.UnlistedWordsRefused := by
  refine ⟨fun c w hxfer hinit => decode_reg_error_iff.mpr (conRow_eq_none.mpr ⟨hxfer, hinit⟩),
    fun c w h => decode_reg_error_iff.mpr (wholeRow_eq_none.mpr h),
    fun c w h => decode_reg_error_iff.mpr (wholeRow_eq_none.mpr h),
    fun c w h => decode_reg_error_iff.mpr (dataRow_eq_none h),
    fun c w r hr h => ?button, fun c r p w hrp h => ?whole,
    fun c w htimer hgpio => decode_reg_error_iff.mpr (if_neg (not_or.mpr ⟨htimer, hgpio⟩)),
    fun c w h => decode_reg_error_iff.mpr (rawstatRow_eq_none h),
    fun c a d => decode_outside_rows, fun c a d => decode_undriven,
    fun s b a d k h hx => dataWrite_sets_mark b h (decode_xact_error_iff.mp hx), fun s t => step_refusalMark,
    fun s r v h => regWrite_refused (accepts_of_regRow_none (decode_reg_error_iff.mp h)),
    fun s r v hr => regWrite_refused (accepts_of_not_writable ?readOnly)⟩
  case button =>
    rcases hr with rfl | rfl <;> exact decode_reg_error_iff.mpr (wholeRow_eq_none.mpr h)
  case whole =>
    simp only [List.mem_cons, Prod.mk.injEq, List.not_mem_nil, or_false] at hrp
    rcases hrp with ⟨rfl, rfl⟩ | ⟨rfl, rfl⟩ | ⟨rfl, rfl⟩ | ⟨rfl, rfl⟩ | ⟨rfl, rfl⟩ | ⟨rfl, rfl⟩ | ⟨rfl, rfl⟩ <;>
      exact decode_reg_error_iff.mpr (wholeRow_eq_none.mpr h)
  case readOnly => rcases hr with rfl | rfl | rfl <;> rfl

/-! ### The XACT rows run by themselves -/

theorem sendRow_of_wellFormed {i : Instr} {s : State} (h : i.WellFormed s.cfg = true) (a d : Byte) :
    sendRow i a d s = .next (call [.op (.write a d)] s) := if_pos h

/-- Settles O24: each row is well-formed, a phase row because its data byte is one of the two. -/
theorem transactionRowsCallWrite : Obligations.TransactionRowsCallWrite := by
  intro d s
  refine ⟨fun hd => ?_, sendRow_of_wellFormed (i := .brakeAllOff) rfl _ _,
    sendRow_of_wellFormed (i := .brakeRelease) rfl _ _, sendRow_of_wellFormed (i := .setupMode1 d) rfl _ _,
    sendRow_of_wellFormed (i := .setupPrescale d) rfl _ _, sendRow_of_wellFormed (i := .setupMode2 d) rfl _ _,
    sendRow_of_wellFormed (i := .setupCh0f d) rfl _ _, sendRow_of_wellFormed (i := .setupCh23 d) rfl _ _⟩
  have hdrive : s.cfg.isDrive d = true := by simpa [Params.isDrive] using hd
  exact ⟨sendRow_of_wellFormed (i := .phaseCh17 d) hdrive _ _, sendRow_of_wellFormed (i := .phaseCh13 d) hdrive _ _,
    sendRow_of_wellFormed (i := .phaseCh1b d) hdrive _ _, sendRow_of_wellFormed (i := .phaseCh1f d) hdrive _ _⟩

end Sys2Proof.Proofs.Unlisted
end

section
/-! What a step writes and hands over is listed (spec/30_encoding.md R93, 60_exceptions.md R200; O57). The events a step
appends are accepted words and transactions whose mark stood in the program; and every `write` a meaning puts in the
program is of a listed transaction, under parameters that meet the spec's constraints. -/

namespace Sys2Proof.Proofs.ListedKept

open Sys2Proof Sys2Proof.Machine
open Sys2Proof.Proofs.Scope Sys2Proof.Proofs.CoreState Sys2Proof.Proofs.SequencerKept
open Sys2Proof.Proofs.RoundTrip Sys2Proof.Proofs.Unlisted

/-! ### The events of one step -/

/-- An event the step from `s` may append: a write its register accepts, a hand-over whose mark is in the program. -/
def MayAppend (s : State) : Event → Prop
  | .wr r v => accepts s.cfg r v = true
  | .xact a d => .xactMark a d ∈ s.core.cont
  | _ => True

/-- The parameters stay, and the events appended to the trace are ones the step may append. -/
structure AppendsListed (s t : State) : Prop where
  cfg : t.cfg = s.cfg
  trace : ∃ es, t.core.trace = s.core.trace ++ es ∧ ∀ e ∈ es, MayAppend s e

theorem AppendsListed.of_trace_eq {s t : State} (hc : t.cfg = s.cfg) (ht : t.core.trace = s.core.trace) :
    AppendsListed s t :=
  ⟨hc, [], by simp [ht], nofun⟩

theorem AppendsListed.of_event {s t : State} {e : Event} (he : MayAppend s e) (hc : t.cfg = s.cfg)
    (ht : t.core.trace = s.core.trace ++ [e]) : AppendsListed s t :=
  ⟨hc, [e], ht, by simpa using he⟩

theorem AppendsListed.behind {x : Item} {k : List Item} {s t : State} (hk : s.core.cont = x :: k)
    (h : AppendsListed (setCont k s) t) : AppendsListed s t := by
  obtain ⟨hc, es, ht, hes⟩ := h
  refine ⟨hc, es, ht, fun e he => ?_⟩
  have hmay := hes e he
  cases e with
  | xact a d =>
    have hmem : .xactMark a d ∈ x :: k := List.mem_cons_of_mem x hmay
    rwa [← hk] at hmem
  | _ => exact hmay

theorem appendsListed_of_calls {is : List Item} {s t : State} (h : Calls is s t) : AppendsListed s t := by
  obtain ⟨hp, -, ht | ⟨r, v, ht⟩ | ht⟩ := h
  · exact .of_trace_eq (onlyProgram_cfg hp) ht
  · exact .of_event (e := .rd r v) trivial (onlyProgram_cfg hp) ht
  · exact .of_event (e := .delay) trivial (onlyProgram_cfg hp) ht

theorem appendsListed_of_writes {s t : State} (h : Writes s t) : AppendsListed s t := by
  obtain ⟨r, v, hv, rfl | ⟨-, rfl⟩⟩ := h
  · exact .of_event (e := .wr r v) hv (written_cfg r v s) (written_trace r v s)
  · rcases handOver_cases (written r v s) with ⟨a, d, k, hk, h⟩ | h
    · rw [written_core] at hk
      have hmark : .xactMark a d ∈ s.core.cont := hk ▸ List.mem_cons_self
      refine ⟨?_, [.wr r v, .xact a d], ?_, ?_⟩
      · rw [h]; exact written_cfg r v s
      · simp [h, written_trace]
      · simpa using ⟨hv, hmark⟩
    · rw [h]
      exact .of_event (e := .wr r v) hv (written_cfg r v s) (written_trace r v s)

theorem exec_appendsListed {i : Instr} {s t : State} (h : exec i s = .next t) : AppendsListed s t := by
  cases exec_effect h with
  | calls _ is _ hc => exact appendsListed_of_calls hc
  | writes _ _ hw => exact appendsListed_of_writes hw
  | faults _ f w _ hc => exact appendsListed_of_calls hc
  | tickStep | advancePhase | countStep | resetToIdle | arm | unknown | enable | disable => exact .of_trace_eq rfl rfl
  | excReturn => exact .of_event (e := .ret) trivial rfl rfl
  | trapEntry => exact .of_event (e := .entry) trivial rfl rfl

theorem markEffect_appendsListed {x : Item} {s t : State} (h : MarkEffect s x t) : AppendsListed s t := by
  cases h with
  | calls is hc => exact appendsListed_of_calls hc
  | faults f w hc => exact appendsListed_of_calls hc

theorem coreTurn_appendsListed {s t : State} (h : coreTurn s = .next t) : AppendsListed s t := by
  rcases coreTurn_head h with ⟨i, k, hk, h⟩ | ⟨f, w, k, -, rfl⟩ | ⟨x, k, hk, -, -, h⟩ | ⟨-, h⟩ | ⟨-, rfl⟩
  · exact (exec_appendsListed h).behind hk
  · obtain ⟨hc, -, ht⟩ := raiseFault_recordsFault f w (setCont k s)
    exact .of_event (e := .fault f w) trivial hc ht
  · exact (markEffect_appendsListed h).behind hk
  · exact exec_appendsListed h
  · exact .of_trace_eq rfl rfl

theorem step_appendsListed {s t : State} (h : step s = .next t) : AppendsListed s t := by
  rcases step_cases h with ⟨m, ms, -, -, rfl⟩ | ⟨ms, -, h⟩
  · obtain ⟨hcore, hcfg, -, -⟩ := agentMove_core m (setScript ms s)
    exact .of_trace_eq hcfg (by rw [hcore]; rfl)
  · obtain ⟨hc, ht⟩ := coreTurn_appendsListed h
    exact ⟨hc, ht⟩

theorem writesListed_iff (s : State) :
    WritesListed s ↔ ∀ r v, .wr r v ∈ s.core.trace → accepts s.cfg r v = true := by
  simp only [WritesListed, writeTrace, List.mem_filterMap, Prod.forall]
  constructor
  · exact fun h r v hmem => h r v ⟨_, hmem, rfl⟩
  · rintro h r v ⟨e, he, hx⟩
    cases e <;> cases hx
    exact h r v he

theorem step_writesListed {s t : State} (hs : WritesListed s) (h : step s = .next t) : WritesListed t := by
  obtain ⟨hcfg, es, htrace, hes⟩ := step_appendsListed h
  rw [writesListed_iff] at hs ⊢
  intro r v hmem
  rw [htrace, List.mem_append] at hmem
  rw [hcfg]
  exact hmem.elim (hs r v) (hes _)

/-! ### The transactions in the program -/

/-- Every `write` in the program, pending or in progress, is of a listed transaction. -/
def AllListed (c : Params) (k : List Item) : Prop := k.all (callsListed c) = true

theorem allListed_append {c : Params} {is k : List Item} :
    AllListed c (is ++ k) ↔ AllListed c is ∧ AllListed c k := by
  simp only [AllListed, List.all_append, Bool.and_eq_true]

theorem allListed_cons {c : Params} {x : Item} {k : List Item} :
    AllListed c (x :: k) ↔ callsListed c x = true ∧ AllListed c k := by
  simp only [AllListed, List.all_cons, Bool.and_eq_true]

/-- What a step leaves of the program after an error is a tail of it, or FAIL_STEP and a tail. -/
theorem allListed_afterErr {c : Params} {k : List Item} (hk : AllListed c k) : AllListed c (afterErr k) := by
  rcases afterErr_cases k with ⟨a, b, h, he⟩ | ⟨a, m, b, h, -, he⟩ | he <;> rw [he]
  · rw [h, allListed_append] at hk
    exact hk.2
  · rw [h, allListed_append, allListed_cons] at hk
    exact hk.2.2
  · exact hk

theorem statRow_listed (c : Params) (v : Word) : AllListed c [.op (statRow v)] := by
  unfold statRow
  split <;> rfl

theorem srcRow_listed (c : Params) (w : Word) : AllListed c [.op (srcRow c w)] := by
  unfold srcRow
  split <;> rfl

theorem emitPairs_listed {c : Params} {ps : List (Byte × Byte)} (h : ∀ p ∈ ps, listedXact c p.1 p.2 = true) :
    AllListed c (emitPairs ps) := by
  induction ps with
  | nil => rfl
  | cons p ps ih =>
    obtain ⟨hp, hps⟩ := List.forall_mem_cons.mp h
    exact allListed_cons.mpr ⟨hp, allListed_cons.mpr ⟨rfl, ih hps⟩⟩

theorem setupPairs_listed {c : Params} {ps : List (Byte × Byte)} (h : ∀ p ∈ ps, listedXact c p.1 p.2 = true) :
    AllListed c (setupPairs ps) := by
  induction ps with
  | nil => rfl
  | cons p ps ih =>
    obtain ⟨hp, hps⟩ := List.forall_mem_cons.mp h
    exact allListed_cons.mpr ⟨hp, allListed_cons.mpr ⟨rfl, ih hps⟩⟩

theorem writeBody_listed {c : Params} {a d : Byte} (h : listedXact c a d = true) : AllListed c (writeBody c a d) := by
  unfold writeBody
  rw [allListed_append, allListed_append]
  refine ⟨⟨?_, ?_⟩, rfl⟩
  · exact List.all_eq_true.mpr (by simpa [callsListed] using h)
  · cases c.nackDetect <;> rfl

/-! ### What the constraints give (10_state.md R38, 00_scope.md R8) -/

theorem phaseEntry_listed {c : Params} {e : PhaseEntry} (h : e.ok c.highVal c.lowVal = true) :
    ∀ p ∈ e.pairs, listedXact c p.1 p.2 = true := by
  simp only [PhaseEntry.ok, Bool.and_eq_true, List.all_eq_true] at h
  obtain ⟨⟨⟨hreg, -⟩, hdata⟩, -⟩ := h
  intro p hp
  exact listedXact_iff.mpr (.inl ⟨by simpa using hreg p hp, hdata p hp⟩)

theorem phaseTable_entry_ok {hi lo : Byte} {t : PhaseTable} (h : t.ok hi lo = true) (p : Phase) :
    (t.entry p).ok hi lo = true := by
  simp only [PhaseTable.ok, Bool.and_eq_true] at h
  obtain ⟨⟨⟨⟨⟨-, h1⟩, h2⟩, h3⟩, h4⟩, -⟩ := h
  cases p
  · exact h1
  · exact h2
  · exact h3
  · exact h4

theorem phaseTable_listed {c : Params} (h : c.ok = true) (p : Phase) :
    ∀ q ∈ (c.phaseTable.entry p).pairs, listedXact c q.1 q.2 = true := by
  simp only [Params.ok, Bool.and_eq_true] at h
  obtain ⟨⟨⟨⟨⟨-, htable⟩, -⟩, -⟩, -⟩, -⟩ := h
  exact phaseEntry_listed (phaseTable_entry_ok htable p)

theorem pwmSetupSeq_listed {c : Params} (h : c.ok = true) : ∀ p ∈ c.pwmSetupSeq, listedXact c p.1 p.2 = true := by
  simp only [Params.ok, Bool.and_eq_true, List.all_eq_true] at h
  obtain ⟨⟨⟨⟨-, hsetup⟩, -⟩, -⟩, -⟩ := h
  intro p hp
  exact listedXact_iff.mpr (.inr (.inl (by simpa using hsetup p hp)))

theorem brakeOn_listed (c : Params) : listedXact c Config.brakeReg Config.brakeOnData = true := rfl
theorem brakeOff_listed (c : Params) : listedXact c Config.brakeReg Config.brakeOffData = true := rfl

theorem row_listed {c : Params} {i : Instr} {a d : Byte} (hw : i.WellFormed c = true)
    (he : encode c i = some (.xact a d)) : listedXact c a d = true :=
  listedXact_iff_decode.mpr ⟨i, decode_ok_iff.mpr ⟨hw, he⟩⟩

/-! ### The program after one step -/

theorem AllListed.call {c : Params} {is : List Item} {s t : State} (hk : AllListed c s.core.cont)
    (h : Host.Outcome.next (Machine.call is s) = (.next t : Out)) (his : AllListed c is) : AllListed c t.core.cont := by
  cases h
  exact allListed_append.mpr ⟨his, hk⟩

theorem AllListed.writes {c : Params} {s t : State} (hk : AllListed c s.core.cont) (h : Writes s t) :
    AllListed c t.core.cont := by
  rcases cont_of_writes h with hc | ⟨a, d, hc⟩
  · rwa [hc]
  · rw [hc, allListed_cons] at hk
    exact hk.2

theorem AllListed.row {i : Instr} {a d : Byte} {s t : State} (hk : AllListed s.cfg s.core.cont)
    (h : sendRow i a d s = .next t) (he : encode s.cfg i = some (.xact a d)) : AllListed s.cfg t.core.cont := by
  obtain ⟨hw, rfl⟩ := sendRow_next.mp h
  exact allListed_cons.mpr ⟨row_listed hw he, hk⟩

theorem AllListed.pollAgain {c : Params} {s t : State} (hk : AllListed c s.core.cont)
    (h : Machine.pollAgain s = .next t) : AllListed c t.core.cont := by
  rcases pollAgain_next h with ⟨-, rfl⟩ | ⟨-, rfl⟩
  · exact hk
  · exact allListed_append.mpr ⟨statRow_listed c _, hk⟩

theorem AllListed.checkRead {c : Params} {s t : State} (hk : AllListed c s.core.cont)
    (h : Machine.checkRead s = .next t) : AllListed c t.core.cont := by
  obtain ⟨-, h⟩ := checkRead_next h
  rcases checkTest_next h with rfl | rfl | rfl | rfl <;> exact hk

theorem AllListed.rawRead {c : Params} {s t : State} (hk : AllListed c s.core.cont)
    (h : Machine.rawRead s = .next t) : AllListed c t.core.cont := by
  rcases rawRead_next h with ⟨-, rfl⟩ | rfl <;> exact hk

theorem AllListed.afterCount {c : Params} {s : State} (hk : AllListed c s.core.cont) :
    AllListed c (Machine.afterCount s).core.cont := by
  unfold Machine.afterCount
  split <;> exact hk

theorem AllListed.raiseFault {c : Params} {s : State} (f : FaultCode) (w : Word) (hk : AllListed c s.core.cont) :
    AllListed c (Machine.raiseFault f w s).core.cont := by
  rw [raiseFault_cont]
  split
  · exact allListed_afterErr hk
  · exact hk

/-- An instruction puts only listed transactions in the program: WRITE its own, the XACT rows theirs, EMIT_PHASE the
phase table's, BRAKE the two brake pairs, PWM_SETUP the setup sequence's, and no other instruction any. -/
theorem exec_allListed {i : Instr} {s t : State} (hok : s.cfg.ok = true) (hi : callsListed s.cfg (.op i) = true)
    (hk : AllListed s.cfg s.core.cont) (h : exec i s = .next t) : AllListed s.cfg t.core.cont := by
  cases i with
  | write a d =>
    obtain ⟨-, -, rfl⟩ := startWrite_next.mp h
    exact allListed_append.mpr ⟨writeBody_listed hi, hk⟩
  | phaseCh17 | phaseCh13 | phaseCh1b | phaseCh1f => exact hk.row h rfl
  | brakeAllOff => exact hk.row (i := .brakeAllOff) h rfl
  | brakeRelease => exact hk.row (i := .brakeRelease) h rfl
  | setupMode1 d => exact hk.row (i := .setupMode1 d) h rfl
  | setupPrescale d => exact hk.row (i := .setupPrescale d) h rfl
  | setupMode2 d => exact hk.row (i := .setupMode2 d) h rfl
  | setupCh0f d => exact hk.row (i := .setupCh0f d) h rfl
  | setupCh23 d => exact hk.row (i := .setupCh23 d) h rfl
  | emitPhase p => exact hk.call h (emitPairs_listed (phaseTable_listed hok p))
  | pwmSetup => exact hk.call h (setupPairs_listed (pwmSetupSeq_listed hok))
  | brake =>
    simp only [exec, execBrake] at h
    split at h <;> exact hk.call h rfl
  | conXfer => exact hk.writes (writes_regWrite (r := .i2cCon) (v := Config.conXferWord) h)
  | conInit => exact hk.writes (writes_regWrite (r := .i2cCon) (v := Config.conInitWord) h)
  | cnt2 | setCount => exact hk.writes (writes_regWrite (r := .i2cCnt) (v := Config.cnt2Word) h)
  | ieXrdy | xrdyEnable => exact hk.writes (writes_regWrite (r := .i2cIe) (v := Config.ieXrdyWord) h)
  | reloadWord v => exact hk.writes (writes_regWrite (r := .timerReload) (v := v) h)
  | timerProgram n p => exact hk.writes (writes_regWrite (r := .timerReload) (v := reloadFor n) h)
  | gpioClr | timerClr | newirqAck | i2cOa | i2cSa | gpioFalldet | intcReset | intcMasken | timerReset | timerOvfie
  | timerStatusClear | gpioStatusClear | gpioEdgeConfig => exact hk.writes (writes_regWrite h)
  | dataByte | dataWrite => exact hk.writes (writes_putByte h)
  | busy => exact hk.pollAgain h
  | completeCheck a => exact AllListed.checkRead (s := startPoll a s) hk h
  | pollBusy a =>
    cases h
    exact allListed_append.mpr ⟨statRow_listed _ _, hk⟩
  | decodeSrc => exact hk.call h (srcRow_listed _ _)
  | dispatchTimer | dispatchGpio | tickBrake | failStep | i2cInit | intcConfig | timerConfig => exact hk.call h rfl
  | dispatchUnknown w =>
    simp only [exec, execDispatchUnknown] at h
    split at h <;> cases h
    exact hk
  | rawOvf v =>
    simp only [exec, execRawOvf] at h
    split at h <;> cases h <;> exact hk
  | dispatch =>
    simp only [exec, execDispatch] at h
    split at h <;> cases h
    exact hk
  | tick =>
    simp only [exec, execTick] at h
    repeat' split at h
    all_goals exact hk.call h rfl
  | tickStep =>
    simp only [exec, execTickStep] at h
    split at h <;> cases h
    exact hk
  | countStep =>
    simp only [exec, execCountStep] at h
    split at h <;> cases h
    exact hk
  | button =>
    simp only [exec, execButton] at h
    split at h <;> exact hk.call h rfl
  | arm =>
    simp only [exec, execArm] at h
    split at h <;> cases h
    exact hk
  | delayByte =>
    simp only [exec, execDelayByte] at h
    split at h <;> cases h <;> exact hk
  | enableInterrupts =>
    simp only [exec, execEnableInterrupts] at h
    split at h <;> cases h
    exact hk
  | excReturn =>
    obtain ⟨c, -, rfl⟩ := trapReturn_next h
    exact hk
  | trapEntry =>
    obtain ⟨-, -, rfl⟩ := trap_next.mp h
    exact hk
  | free | readSrc | tickIdle | advancePhase | resetToIdle | buttonIgnored | disableInterrupts =>
    cases h
    exact hk

theorem coreTurn_allListed {s t : State} (hok : s.cfg.ok = true) (hs : AllListed s.cfg s.core.cont)
    (h : coreTurn s = .next t) : AllListed s.cfg t.core.cont := by
  have hbehind : ∀ {x k}, s.core.cont = x :: k → callsListed s.cfg x = true ∧ AllListed s.cfg k :=
    fun hk => allListed_cons.mp (hk ▸ hs)
  rcases coreTurn_cases h with ⟨i, k, hk, h⟩ | ⟨f, w, k, hk, rfl⟩ | ⟨k, hk, rfl⟩ | ⟨k, hk, h⟩ | ⟨k, hk, h⟩
    | ⟨m, k, hk, -, rfl⟩ | ⟨-, -, -, h⟩ | ⟨-, -, -, rfl⟩
  · exact exec_allListed (s := setCont k s) hok (hbehind hk).1 (hbehind hk).2 h
  · exact AllListed.raiseFault (s := setCont k s) f w (hbehind hk).2
  · exact AllListed.afterCount (s := setCont k s) (hbehind hk).2
  · exact AllListed.checkRead (s := setCont k s) (hbehind hk).2 h
  · exact AllListed.rawRead (s := setCont k s) (hbehind hk).2 h
  · exact (hbehind hk).2
  · exact exec_allListed hok rfl hs h
  · exact hs

theorem step_allListed {s t : State} (hok : s.cfg.ok = true) (hs : AllListed s.cfg s.core.cont)
    (h : step s = .next t) : AllListed s.cfg t.core.cont := by
  rcases step_cases h with ⟨m, ms, -, -, rfl⟩ | ⟨ms, -, h⟩
  · obtain ⟨hcore, -, -, -⟩ := agentMove_core m (setScript ms s)
    rw [hcore]
    exact hs
  · exact coreTurn_allListed (s := setScript ms s) hok hs h

theorem refusalMark_eq_false_iff (s : State) :
    s.refusalMark = false ↔ ∀ a d, .xact a d ∈ s.core.trace → listedXact s.cfg a d = true := by
  rw [Bool.eq_false_iff, Ne, refusalMark_iff]
  simp

/-- A transaction handed over had its mark in the program, where every mark is of a listed one. -/
theorem step_transactionsListed {s t : State} (hs : TransactionsListed s) (h : step s = .next t) :
    TransactionsListed t := by
  obtain ⟨hok, hprogram, hmark⟩ := hs
  obtain ⟨hcfg, es, htrace, hes⟩ := step_appendsListed h
  refine ⟨hcfg ▸ hok, hcfg ▸ step_allListed hok hprogram h, ?_⟩
  rw [refusalMark_eq_false_iff] at hmark ⊢
  intro a d hmem
  rw [htrace, List.mem_append] at hmem
  rw [hcfg]
  exact hmem.elim (hmark a d) fun hnew => List.all_eq_true.mp hprogram _ (hes _ hnew)

/-- Settles O57: the words by what a step appends to the trace, the transactions by that and the program. -/
theorem writesListedKept : Obligations.WritesListedKept :=
  ⟨fun _ _ => step_writesListed, fun _ _ => step_transactionsListed⟩

end Sys2Proof.Proofs.ListedKept
end

section
/-! The dispatcher (spec/40_dispatcher.md R100 to R106): what each of its operations does (O7, O8, O9, O11), and a
button edge handled from Idle as the run of their steps under a quiet script (spec/43_button_handler.md R160, R161;
O42). -/

namespace Sys2Proof.Proofs.Dispatcher

open Sys2Proof Sys2Proof.Machine
open Sys2Proof.Proofs.RoundTrip Sys2Proof.Proofs.CoreMoves Sys2Proof.Proofs.SequencerMain Sys2Proof.Proofs.ContextKept

/-! ### The operations of the dispatcher -/

/-- READ_SRC's local (R101). -/
def holdSource (w : Word) (s : State) : State := { s with core.locals.srcWord := w }

/-- ARM's registers (43_button_handler.md R161). -/
def armSequencer (s : State) : State := { s with core.steps := 0, core.phase := .p1, core.armed := true }

/-- The context EXC_RETURN goes back to (R106). -/
def restoreContext (c : Saved) (s : State) : State :=
  { s with core.pc := c.pc, core.status := c.status, core.imask := c.imask, core.saved := none, core.ctx := .main }

/-- The branch of a source word is a choice among the three SRC rows (R102). -/
theorem srcRow_eq_ite (c : Params) (w : Word) :
    srcRow c w =
      if c.unknownIrqPolicy = .flag ∧ w ≠ c.srcWordTimer ∧ w ≠ c.srcWordGpio then .dispatchUnknown w
      else if w.getLsbD 2 = true then .dispatchGpio w
      else .dispatchTimer w := by
  have hbit : w.bit Config.srcSelectBit = w.getLsbD 2 := rfl
  simp only [srcRow_eq, hbit, ← recognises_eq_false]
  cases c.recognises w <;> cases w.getLsbD 2 <;> rfl

/-! Each rule runs its statement in front of a program `k`. -/

theorem exec_dispatch {k : List Item} (h : .op .excReturn ∉ k) (s : State) :
    exec .dispatch (setCont k s) = .next
      (setCont (.op .readSrc :: .op .decodeSrc :: .op .newirqAck :: .op .excReturn :: k) s) := by
  have hidle : dispatchInProgress (setCont k s) = false := by
    simp only [dispatchInProgress, setCont_cont, List.any_beq', List.contains_eq_mem, decide_eq_false h]
  simp only [exec, execDispatch, hidle]
  rfl

theorem exec_readSrc (k : List Item) (s : State) :
    exec .readSrc (setCont k s) = .next
      (setCont k (holdSource s.intc.active (emit (.rd .intcActive s.intc.active) s))) := rfl

theorem exec_decodeSrc (k : List Item) (s : State) :
    exec .decodeSrc (setCont k s) = .next (setCont (.op (srcRow s.cfg s.core.locals.srcWord) :: k) s) := rfl

theorem exec_dispatchTimer (w : Word) (k : List Item) (s : State) :
    exec (.dispatchTimer w) (setCont k s) = .next (setCont (.op .timerStatusClear :: .op .tick :: k) s) := rfl

theorem exec_dispatchGpio (w : Word) (k : List Item) (s : State) :
    exec (.dispatchGpio w) (setCont k s) = .next (setCont (.op .gpioStatusClear :: .op .button :: k) s) := rfl

theorem exec_excReturn {s : State} {c : Saved} (h : s.core.saved = some c) (k : List Item) :
    exec .excReturn (setCont k s) = .next (setCont k (emit .ret (restoreContext c s))) := by
  simp only [exec, execExcReturn, trapReturn, setCont_saved, h]
  rfl

theorem exec_excReturn_unsaved {s : State} (h : s.core.saved = none) :
    exec .excReturn s = .refused .returnWithoutContext := by
  simp only [exec, execExcReturn, trapReturn, h]

/-- Settles O7: the read gives the latched word, and the word alone picks the branch. -/
theorem sourceReadAndDecoded : Obligations.SourceReadAndDecoded := by
  refine ⟨fun s => exec_readSrc s.core.cont s, fun s => ?_⟩
  have h := exec_decodeSrc s.core.cont s
  rw [srcRow_eq_ite] at h
  exact h

/-- Settles O8: each is a call of its statements; DISPATCH's guard is met. -/
theorem dispatchSequences : Obligations.DispatchSequences :=
  ⟨fun s h => exec_dispatch h s, fun w s => exec_dispatchTimer w s.core.cont s,
    fun w s => exec_dispatchGpio w s.core.cont s⟩

/-- Settles O9: DISPATCH_UNKNOWN exists in Flag. -/
theorem unknownSourceCounted : Obligations.UnknownSourceCounted := by
  intro w s hflag
  simp only [exec, execDispatchUnknown, hflag]
  rfl

/-- Settles O11, by whether a context is saved. -/
theorem excReturnRestores : Obligations.ExcReturnRestores :=
  ⟨fun s _ h => exec_excReturn h s.core.cont, fun _ h => exec_excReturn_unsaved h⟩

/-! ### The operations of the button's handler -/

theorem exec_newirqAck (k : List Item) (s : State) :
    exec .newirqAck (setCont k s) = .next (setCont k (written .intcNewirq s.cfg.newirqAckValue s)) :=
  regWrite_accepted (accepts_newirqAck s.cfg)

theorem exec_gpioStatusClear (k : List Item) (s : State) :
    exec .gpioStatusClear (setCont k s) = .next (setCont k (written .gpioStatclr (buttonWord s.cfg) s)) :=
  regWrite_accepted (accepts_gpioClr s.cfg)

theorem exec_timerProgram (n : Word) (p : Purpose) (k : List Item) (s : State) :
    exec (.timerProgram n p) (setCont k s) = .next (setCont k (written .timerReload (reloadFor n) s)) :=
  regWrite_accepted (s := setCont k s) (accepts_reload s.cfg (reloadFor n))

theorem exec_button_idle {s : State} (h : s.core.armed = false) (k : List Item) :
    exec .button (setCont k s) = .next (setCont (.op .arm :: k) s) := by
  simp only [exec, execButton, setCont_armed, h]
  rfl

theorem exec_arm_idle {s : State} (h : s.core.armed = false) (k : List Item) :
    exec .arm (setCont k s) = .next
      (setCont (.op (.timerProgram s.cfg.stepTicks .stepAdvance) :: k) (armSequencer s)) := by
  simp only [exec, execArm, setCont_armed, h]
  rfl

/-- The reload word is the negative of the count (30_encoding.md R88). -/
theorem reloadFor_eq_neg (n : Word) : reloadFor n = -n := by
  have hones : 0xFFFFFFFF#32 = -1#32 := rfl
  rw [reloadFor, hones]
  ring

theorem reloadFor_toNat (n : Word) : (reloadFor n).toNat = (2 ^ 32 - n.toNat) % 2 ^ 32 := by
  rw [reloadFor_eq_neg, BitVec.toNat_neg]

theorem srcRow_gpio {c : Params} (h : c.srcWordGpio.getLsbD 2 = true) :
    srcRow c c.srcWordGpio = .dispatchGpio c.srcWordGpio := by
  simp [srcRow_eq_ite, h]

/-- The controller delivers a source that is pending alone, whatever its pick (60_exceptions.md R210). -/
theorem chosen_gpio {s : State} (hg : s.pending .gpio = true) (ht : s.pending .timer = false)
    (he : s.pending .extra = false) : s.chosen = .gpio := by
  unfold State.chosen
  cases s.env.pick <;> simp [hg, ht, he]

theorem takeTrap_active (s : State) : (takeTrap s).intc.active = s.sourceWord s.chosen := rfl
theorem takeTrap_cont (s : State) : (takeTrap s).core.cont = .op .dispatch :: s.core.cont := rfl

/-! ### The run -/

/-- `n` steps lead from `s` to `t`. -/
def Runs (n : Nat) (s t : State) : Prop := Host.Core.run Sys2Proof.core n s = .next t

theorem Runs.refl (s : State) : Runs 0 s s := rfl

theorem Runs.step {n : Nat} {s u t : State} (h : step s = .next u) (hr : Runs n u t) : Runs (n + 1) s t := by
  simpa only [Runs, Host.Core.run, Host.Check.core_step, h] using hr

/-- Under a quiet script a step runs the statement at the head of the program. -/
theorem Runs.op {n : Nat} {s u t : State} {i : Instr} {k : List Item} (hs : s.env.script = [])
    (he : exec i (setCont k s) = .next u) (hr : Runs n u t) : Runs (n + 1) (setCont (.op i :: k) s) t :=
  .step ((step_quiet (s := setCont (.op i :: k) s) hs).trans ((coreTurn_op rfl).trans he)) hr

theorem setCont_of_cont {s : State} {k : List Item} (h : s.core.cont = k) : setCont k s = s := by
  subst h
  rfl

/-- From Main the core takes a deliverable interrupt (60_exceptions.md R207, R209). -/
theorem runs_entry {n : Nat} {s t : State} (hs : s.env.script = []) (hk : s.core.cont = [])
    (hd : s.deliverable = true) (hr : Runs n (setCont [.op .dispatch] (takeTrap s)) t) : Runs (n + 1) s t := by
  rw [setCont_of_cont (by rw [takeTrap_cont, hk])] at hr
  refine .step ?_ hr
  rw [step_quiet hs, coreTurn_delivers hk hd]
  exact trap_next.mpr ⟨by rw [deliverable_main hd]; decide, hd, rfl⟩

/-- DISPATCH up to its branch: the word is read, and the statement of its row comes before the acknowledgement (R100 to
R102). -/
theorem runs_dispatch {n : Nat} {s t : State} {i : Instr} {k : List Item} (hs : s.env.script = [])
    (hn : .op .excReturn ∉ k) (hi : srcRow s.cfg s.intc.active = i)
    (hr : Runs n (setCont (.op i :: .op .newirqAck :: .op .excReturn :: k)
      (holdSource s.intc.active (emit (.rd .intcActive s.intc.active) s))) t) :
    Runs (n + 3) (setCont (.op .dispatch :: k) s) t := by
  subst hi
  exact .op hs (exec_dispatch hn s) <| .op hs (exec_readSrc _ s) <| .op hs (exec_decodeSrc _ _) hr

/-- The button's branch from Idle: LATCH is cleared, the sequencer armed and the timer programmed (R103,
43_button_handler.md R160, R161). -/
theorem runs_dispatchGpio_idle {n : Nat} {s t : State} {w : Word} {k : List Item} (hs : s.env.script = [])
    (ha : s.core.armed = false)
    (hr : Runs n (setCont k (written .timerReload (reloadFor s.cfg.stepTicks)
      (armSequencer (written .gpioStatclr (buttonWord s.cfg) s)))) t) :
    Runs (n + 5) (setCont (.op (.dispatchGpio w) :: k) s) t :=
  .op hs (exec_dispatchGpio w k s) <| .op hs (exec_gpioStatusClear _ s) <|
    .op hs (exec_button_idle (by exact ha) _) <| .op hs (exec_arm_idle (by exact ha) _) <|
    .op hs (exec_timerProgram _ _ k _) hr

/-- The end of DISPATCH: the gate opens and the saved context comes back (R106, 44_peripheral_ops.md R173). -/
theorem runs_acknowledge_return {n : Nat} {s t : State} {c : Saved} {k : List Item} (hs : s.env.script = [])
    (hc : s.core.saved = some c)
    (hr : Runs n (setCont k (emit .ret (restoreContext c (written .intcNewirq s.cfg.newirqAckValue s)))) t) :
    Runs (n + 2) (setCont (.op .newirqAck :: .op .excReturn :: k) s) t :=
  .op hs (exec_newirqAck _ s) <| .op hs (exec_excReturn (by exact hc) k) hr

/-- Settles O42: the delivery, DISPATCH up to the button's branch, the branch from Idle, and the return. -/
theorem buttonHandlerArms : Obligations.ButtonHandlerArms := by
  intro s ⟨hmain, hcont⟩ hscript hmask hgate hidle hlatch hen htimer hextra hbit
  have hgpio : s.pending .gpio = true := by simp [State.pending, hlatch, hen]
  have hdeliver : s.deliverable = true := by simp [State.deliverable, State.anyPending, hmain, hmask, hgate, hgpio]
  have hsource : s.sourceWord s.chosen = s.cfg.srcWordGpio := by rw [chosen_gpio hgpio htimer hextra]; rfl
  have hrow : srcRow s.cfg (takeTrap s).intc.active = .dispatchGpio s.cfg.srcWordGpio := by
    rw [takeTrap_active, hsource, srcRow_gpio hbit]
  refine ⟨_, reloadFor s.cfg.stepTicks, reloadFor_toNat _,
    runs_entry hscript hcont hdeliver <| runs_dispatch hscript nofun hrow <|
      runs_dispatchGpio_idle hscript hidle <| runs_acknowledge_return hscript rfl (.refl _),
    ?fields⟩
  case fields =>
    simp [AtMain, takeTrap, holdSource, armSequencer, restoreContext, written, deviceEffect, hsource, buttonWord,
      Word.oneHot]

end Sys2Proof.Proofs.Dispatcher
end

section
/-! The I2C master's write primitive (spec/41_i2c_master.md R120 to R127): what each of its operations does (O16 to
O22), and one `write` on a free bus as the run of their steps under a quiet script (O23). -/

namespace Sys2Proof.Proofs.Master

open Sys2Proof Sys2Proof.Machine
open Sys2Proof.Proofs.CoreMoves Sys2Proof.Proofs.Unlisted Sys2Proof.Proofs.Dispatcher

/-! ### The poll and its budget (R121) -/

/-- A busy read is counted (R121). -/
def countRead (s : State) : State := { s with core.locals.busyReads := s.core.locals.busyReads + 1 }

/-- A read of I2C.STAT leaves its event. -/
def statusRead (s : State) : State := emit (.rd .i2cStat s.i2c.stat) s

theorem budgetSpent_iff {c : Params} {n : Nat} : budgetSpent c n = true ↔ ∃ b, c.pollBudget = some b ∧ b ≤ n := by
  unfold budgetSpent
  cases c.pollBudget <;> simp

theorem budgetSpent_eq_false_iff {c : Params} {n : Nat} :
    budgetSpent c n = false ↔ ∀ b, c.pollBudget = some b → n < b := by
  unfold budgetSpent
  cases c.pollBudget <;> simp

theorem exec_pollBusy (a : Byte) (k : List Item) (s : State) :
    exec (.pollBusy a) (setCont k s) = .next
      (setCont (.op (statRow s.i2c.stat) :: k) (statusRead (startPoll a s))) := rfl

theorem exec_free (v : Word) (s : State) : exec (.free v) s = .next s := rfl

theorem exec_busy_spent {s : State} (h : budgetSpent s.cfg (s.core.locals.busyReads + 1) = true) (v : Word) :
    exec (.busy v) s = .next (call [.raise .busTimeout (addrInfo s.core.locals.pollAddr)] (countRead s)) :=
  if_pos h

theorem exec_busy_again {s : State} (h : budgetSpent s.cfg (s.core.locals.busyReads + 1) = false) (v : Word) :
    exec (.busy v) s = .next (call [.op (statRow s.i2c.stat)] (statusRead (countRead s))) :=
  if_neg (Bool.eq_false_iff.mp h)

/-- Settles O17: the first read, FREE, and BUSY by whether its read spends the budget. -/
theorem pollReadsStatus : Obligations.PollReadsStatus := by
  refine ⟨fun a s => exec_pollBusy a s.core.cont s, exec_free, fun v s b hb hle => ?spent, fun v s hlt => ?again⟩
  case spent => exact exec_busy_spent (budgetSpent_iff.mpr ⟨b, hb, hle⟩) v
  case again => exact exec_busy_again (budgetSpent_eq_false_iff.mpr hlt) v

/-! ### The register writes (R122 to R126) -/

theorem written_cnt2 (s : State) :
    written .i2cCnt Config.cnt2Word s =
      { s with core.trace := s.core.trace ++ [.wr .i2cCnt 0x00000002#32], i2c.cnt := 0x00000002#32 } := rfl

theorem written_ieXrdy (s : State) :
    written .i2cIe Config.ieXrdyWord s =
      { s with core.trace := s.core.trace ++ [.wr .i2cIe 0x00000010#32], i2c.ie := 0x00000010#32 } := rfl

/-- The transfer word starts a transaction of the count held, and BB is bit 12 (R123). -/
theorem written_conXfer (s : State) :
    written .i2cCon Config.conXferWord s =
      { s with
        core.trace := s.core.trace ++ [.wr .i2cCon 0x00008603#32]
        i2c.con := 0x00008603#32
        i2c.txn := some { count := s.i2c.cnt.toNat, sent := [] }
        i2c.stat := s.i2c.stat ||| 0x00001000#32 } := rfl

/-- The data register holds the byte zero-extended, and its low byte is what is queued (R125). -/
theorem written_data (b : Byte) (s : State) :
    written .i2cData (dataWord b) s =
      { s with
        core.trace := s.core.trace ++ [.wr .i2cData (BitVec.setWidth 32 b)]
        i2c.data := BitVec.setWidth 32 b
        i2c.txq := s.i2c.txq ++ [b] } := by
  simp only [written, deviceEffect, lowByte_dataWord]
  rfl

theorem exec_setCount (k : List Item) (s : State) :
    exec .setCount (setCont k s) = .next (setCont k (written .i2cCnt Config.cnt2Word s)) :=
  regWrite_accepted (s := setCont k s) (accepts_cnt2 s.cfg)

theorem exec_xrdyEnable (k : List Item) (s : State) :
    exec .xrdyEnable (setCont k s) = .next (setCont k (written .i2cIe Config.ieXrdyWord s)) :=
  regWrite_accepted (s := setCont k s) (accepts_ieXrdy s.cfg)

theorem exec_conXfer (k : List Item) (s : State) :
    exec .conXfer (setCont k s) = .next (setCont k (written .i2cCon Config.conXferWord s)) :=
  regWrite_accepted (s := setCont k s) (accepts_conXfer s.cfg)

/-- Settles O18: each operation and the row of its word are the one register write (log 23). -/
theorem countAndEnableWords : Obligations.CountAndEnableWords := by
  intro c s
  have hcount := exec_setCount s.core.cont s
  have henable := exec_xrdyEnable s.core.cont s
  rw [written_cnt2] at hcount
  rw [written_ieXrdy] at henable
  exact ⟨rfl, hcount, hcount, rfl, henable, henable⟩

/-- Settles O19, by what the write of the transfer word does. -/
theorem conXferStartsTransaction : Obligations.ConXferStartsTransaction := fun s =>
  (exec_conXfer s.core.cont s).trans (congrArg _ (written_conXfer s))

theorem dataWrite_off_mark {s : State} (h : ∀ a d k, s.core.cont ≠ .xactMark a d :: k) (b : Byte) :
    exec (.dataWrite b) s = .next (written .i2cData (dataWord b) s) := by
  have hoff : handOver (written .i2cData (dataWord b) s) = written .i2cData (dataWord b) s :=
    (handOver_cases _).resolve_left fun ⟨a, d, k, hk, _⟩ => h a d k hk
  exact (putByte_eq b s).trans (congrArg _ hoff)

/-- Settles O20, by whether the hand-over mark comes next; the row of the word is the operation (log 23). -/
theorem dataWriteQueuesByte : Obligations.DataWriteQueuesByte := by
  have hrow : ∀ {i : Instr} {b : Byte} (s : State), i = .dataWrite b ∨ i = .dataByte b →
      exec i s = exec (.dataWrite b) s := by
    rintro i b s (rfl | rfl) <;> rfl
  refine ⟨fun i b s hi hoff => ?off, fun i b a d k s hi hmark => ?at_mark⟩
  case off => rw [hrow s hi, dataWrite_off_mark hoff, written_data]
  case at_mark =>
    rw [hrow s hi, dataWrite_at_mark b hmark, written_data]
    simp [emit, setCont]

/-! ### COMPLETE_CHECK (R127) -/

section
variable {s : State} (hform : s.cfg.nackDetect = true)
include hform

theorem checkRead_eq : checkRead s = checkTest s.i2c.stat (statusRead s) := if_pos hform

theorem checkRead_nack (hn : s.i2c.stat.bit s.cfg.nackBit = true) :
    checkRead s = .next (call [.raise .transactionFailed (addrInfo s.core.locals.pollAddr)] (statusRead s)) :=
  (checkRead_eq hform).trans (if_pos hn)

variable (hn : s.i2c.stat.bit s.cfg.nackBit = false)
include hn

theorem checkRead_done (hd : s.i2c.stat.bit s.cfg.doneBit = true) : checkRead s = .next (statusRead s) :=
  (checkRead_eq hform).trans <| (if_neg (Bool.eq_false_iff.mp hn)).trans (if_pos hd)

variable (hd : s.i2c.stat.bit s.cfg.doneBit = false)
include hd

/-- With neither bit set the read is counted against the budget of R121. -/
theorem checkRead_pending :
    checkRead s =
      if budgetSpent s.cfg (s.core.locals.busyReads + 1) then
        .next (call [.raise .busTimeout (addrInfo s.core.locals.pollAddr)] (countRead (statusRead s)))
      else .next (call [.checkLoop] (countRead (statusRead s))) :=
  (checkRead_eq hform).trans <| (if_neg (Bool.eq_false_iff.mp hn)).trans (if_neg (Bool.eq_false_iff.mp hd))

theorem checkRead_spent (hb : ∃ b, s.cfg.pollBudget = some b ∧ b ≤ s.core.locals.busyReads + 1) :
    checkRead s =
      .next (call [.raise .busTimeout (addrInfo s.core.locals.pollAddr)] (countRead (statusRead s))) :=
  (checkRead_pending hform hn hd).trans (if_pos (budgetSpent_iff.mpr hb))

theorem checkRead_again (hb : ∀ b, s.cfg.pollBudget = some b → s.core.locals.busyReads + 1 < b) :
    checkRead s = .next (call [.checkLoop] (countRead (statusRead s))) :=
  (checkRead_pending hform hn hd).trans (if_neg (Bool.eq_false_iff.mp (budgetSpent_eq_false_iff.mpr hb)))

end

/-- Settles O21: the first read is the loop's read with no busy read counted yet. -/
theorem completeCheckTests : Obligations.CompleteCheckTests := by
  intro a s hform
  have hform' : (startPoll a s).cfg.nackDetect = true := hform
  exact ⟨checkRead_nack hform', checkRead_done hform', checkRead_spent hform', checkRead_again hform'⟩

theorem coreTurn_checkLoop {s : State} {k : List Item} (h : s.core.cont = .checkLoop :: k) :
    coreTurn s = checkRead (setCont k s) := by
  simp only [coreTurn, h]

/-- Settles O22: a step at the loop head is the loop's read. -/
theorem completeCheckLoops : Obligations.CompleteCheckLoops := by
  intro s k hform hs hk
  have hform' : (setCont k s).cfg.nackDetect = true := hform
  rw [step_quiet hs, coreTurn_checkLoop hk]
  exact ⟨checkRead_nack hform', checkRead_done hform', checkRead_spent hform', checkRead_again hform'⟩

/-! ### One `write` (R120) -/

theorem exec_write {s : State} {k : List Item} (hk : .writeEnd ∉ k) (hmask : s.core.ctx = .main → s.core.imask = true)
    (a d : Byte) : exec (.write a d) (setCont k s) = .next (setCont (writeBody s.cfg a d ++ k) s) := by
  refine startWrite_next.mpr ⟨?free, fun ⟨hmain, hopen⟩ => ?masked, rfl⟩
  case free => simp only [writeInProgress, setCont_cont, List.any_beq', List.contains_eq_mem, decide_eq_false hk]
  case masked => exact absurd ((hmask hmain).symm.trans hopen) (by decide)

/-- Settles O16: the body is the literal list, with COMPLETE_CHECK where it exists. -/
theorem writeExpands : Obligations.WriteExpands := by
  intro a d s hk hmask
  refine (exec_write (k := s.core.cont) hk hmask a d).trans ?_
  cases hform : s.cfg.nackDetect <;> simp [writeBody, hform, setCont]

/-- What one `write` does once its poll has found the bus free, in the order of R120. -/
def issueWrite (a d : Byte) (s : State) : State :=
  let polled := statusRead (startPoll a s)
  let started := written .i2cCon Config.conXferWord (written .i2cCnt Config.cnt2Word polled)
  let addressed := written .i2cData (dataWord a) (written .i2cIe Config.ieXrdyWord started)
  emit (.xact a d) (written .i2cData (dataWord d) (written .i2cIe Config.ieXrdyWord addressed))

theorem issueWrite_eq (a d : Byte) (s : State) :
    issueWrite a d s =
      { s with
        core.trace := s.core.trace ++
          [.rd .i2cStat s.i2c.stat, .wr .i2cCnt 0x00000002#32, .wr .i2cCon 0x00008603#32, .wr .i2cIe 0x00000010#32,
            .wr .i2cData (BitVec.setWidth 32 a), .wr .i2cIe 0x00000010#32, .wr .i2cData (BitVec.setWidth 32 d),
            .xact a d]
        core.locals.pollAddr := a
        core.locals.busyReads := 0
        i2c.stat := s.i2c.stat ||| 0x00001000#32
        i2c.cnt := 0x00000002#32
        i2c.con := 0x00008603#32
        i2c.ie := 0x00000010#32
        i2c.data := BitVec.setWidth 32 d
        i2c.txq := s.i2c.txq ++ [a, d]
        i2c.txn := some { count := 2, sent := [] } } := by
  simp [issueWrite, written_cnt2, written_conXfer, written_ieXrdy, written_data, statusRead, startPoll, emit]

theorem writeBody_unchecked {c : Params} (h : c.nackDetect = false) (a d : Byte) (k : List Item) :
    writeBody c a d ++ k =
      .op (.pollBusy a) :: .op .setCount :: .op .conXfer :: .op .xrdyEnable :: .op (.dataWrite a) :: .op .xrdyEnable ::
        .op (.dataWrite d) :: .xactMark a d :: .writeEnd :: k := by
  simp [writeBody, h]

theorem statRow_free {v : Word} (h : v.bit Config.bbBit = false) : statRow v = .free v :=
  if_neg (Bool.eq_false_iff.mp h)

/-- Under a quiet script a step passes the end of a `write`. -/
theorem runs_writeEnd {n : Nat} {s t : State} {k : List Item} (hs : s.env.script = []) (hr : Runs n (setCont k s) t) :
    Runs (n + 1) (setCont (.writeEnd :: k) s) t :=
  .step (step_quiet (s := setCont (.writeEnd :: k) s) hs) hr

/-- A step that writes a register leaves the script quiet for the rest of the run. -/
theorem runs_written {n : Nat} {s t : State} {i : Instr} {r : Reg} {v : Word} {k : List Item}
    (he : exec i (setCont k s) = .next (setCont k (written r v s)))
    (hr : (written r v s).env.script = [] → Runs n (setCont k (written r v s)) t) (hs : s.env.script = []) :
    Runs (n + 1) (setCont (.op i :: k) s) t :=
  .op hs he (hr (by rw [written_env, hs]))

theorem exec_dataWrite_first (b : Byte) (k : List Item) (s : State) :
    exec (.dataWrite b) (setCont (.op .xrdyEnable :: k) s) = .next
      (setCont (.op .xrdyEnable :: k) (written .i2cData (dataWord b) s)) :=
  dataWrite_off_mark (by simp) b

theorem exec_dataWrite_last (a d : Byte) (k : List Item) (s : State) :
    exec (.dataWrite d) (setCont (.xactMark a d :: k) s) = .next
      (setCont k (emit (.xact a d) (written .i2cData (dataWord d) s))) :=
  dataWrite_at_mark (s := setCont (.xactMark a d :: k) s) d rfl

/-- The second byte of a `write`: its register write, the hand-over, and the end of the call (R126). -/
theorem runs_handOver {n : Nat} {s t : State} {a d : Byte} {k : List Item}
    (hr : Runs n (setCont k (emit (.xact a d) (written .i2cData (dataWord d) s))) t) (hs : s.env.script = []) :
    Runs (n + 2) (setCont (.op (.dataWrite d) :: .xactMark a d :: .writeEnd :: k) s) t :=
  .op hs (exec_dataWrite_last a d _ s) (runs_writeEnd hs hr)

/-- One `write` on a free bus, without COMPLETE_CHECK: ten steps in front of the program `k` (R120, R126). -/
theorem runs_write {n : Nat} {s t : State} {a d : Byte} {k : List Item} (hs : s.env.script = []) (hk : .writeEnd ∉ k)
    (hmask : s.core.ctx = .main → s.core.imask = true) (hform : s.cfg.nackDetect = false) (hfree : s.busy = false)
    (hr : Runs n (setCont k (issueWrite a d s)) t) : Runs (n + 10) (setCont (.op (.write a d) :: k) s) t := by
  refine .op hs (exec_write hk hmask a d) ?_
  rw [writeBody_unchecked hform]
  refine .op hs (exec_pollBusy a _ s) ?_
  rw [statRow_free hfree]
  exact .op hs (exec_free _ _) <| runs_written (exec_setCount _ _) (runs_written (exec_conXfer _ _) <|
    runs_written (exec_xrdyEnable _ _) <| runs_written (exec_dataWrite_first a _ _) <|
    runs_written (exec_xrdyEnable _ _) <| runs_handOver hr) hs

/-- Settles O23: the run of one `write`, and nothing after it. -/
theorem writeIssuesLiteralSequence : Obligations.WriteIssuesLiteralSequence := by
  intro s a d k hs hcont hk hmask hform hfree
  have hrun := runs_write (t := setCont k (issueWrite a d s)) (a := a) (d := d) hs hk hmask hform hfree (.refl _)
  rw [setCont_of_cont hcont, issueWrite_eq] at hrun
  exact hrun

end Sys2Proof.Proofs.Master
end

section
/-! The core's move does not look at the moves to come (spec/20_memory.md R64): a run under a quiet script is the same
run under a script that begins with as many moves of the core. -/

namespace Sys2Proof.Proofs.Script

open Sys2Proof Sys2Proof.Machine
open Sys2Proof.Proofs.CoreMoves Sys2Proof.Proofs.Dispatcher

/-- The outcome with `f` applied to its next state. -/
def onNext (f : State → State) : Out → Out
  | .next s => .next (f s)
  | .fault r => .fault r
  | .refused r => .refused r

theorem onNext_ite (f : State → State) (c : Prop) [Decidable c] (a b : Out) :
    onNext f (if c then a else b) = if c then onNext f a else onNext f b :=
  apply_ite (onNext f) c a b

section
variable (ms : List Move) (s : State)

/-! ### The shared operations -/

theorem written_setScript (r : Reg) (v : Word) : written r v (setScript ms s) = setScript ms (written r v s) := by
  cases r with
  | i2cCon =>
    simp only [written, deviceEffect, writeCon]
    split <;> rfl
  | _ => rfl

theorem regWrite_setScript (r : Reg) (v : Word) :
    regWrite r v (setScript ms s) = onNext (setScript ms) (regWrite r v s) := by
  simp only [regWrite, written_setScript, onNext_ite]
  rfl

theorem handOver_setScript : handOver (setScript ms s) = setScript ms (handOver s) := by
  simp only [handOver, setScript_cont]
  split <;> rfl

theorem putByte_setScript (b : Byte) : putByte b (setScript ms s) = onNext (setScript ms) (putByte b s) := by
  rw [putByte_eq, putByte_eq, written_setScript, handOver_setScript]
  rfl

theorem pollAgain_setScript : pollAgain (setScript ms s) = onNext (setScript ms) (pollAgain s) := by
  simp only [pollAgain, onNext_ite]
  rfl

theorem checkTest_setScript (v : Word) :
    checkTest v (setScript ms s) = onNext (setScript ms) (checkTest v s) := by
  simp only [checkTest, onNext_ite]
  rfl

theorem checkRead_setScript : checkRead (setScript ms s) = onNext (setScript ms) (checkRead s) := by
  simp only [checkRead, onNext_ite]
  exact if_congr Iff.rfl (checkTest_setScript ms (emit (.rd .i2cStat s.i2c.stat) s) s.i2c.stat) rfl

theorem regRead_setScript {r : Reg} {k : Word → State → Out}
    (hk : ∀ v t, k v (setScript ms t) = onNext (setScript ms) (k v t)) :
    regRead r k (setScript ms s) = onNext (setScript ms) (regRead r k s) := by
  have hread : (setScript ms s).readable r = s.readable r := rfl
  simp only [regRead, hread]
  cases s.readable r with
  | some v => exact hk v (emit (.rd r v) s)
  | none => rfl

theorem rawRead_setScript : rawRead (setScript ms s) = onNext (setScript ms) (rawRead s) := by
  simp only [rawRead, onNext_ite]
  exact if_congr Iff.rfl rfl (regRead_setScript ms s fun _ _ => rfl)

theorem sendRow_setScript (i : Instr) (a d : Byte) :
    sendRow i a d (setScript ms s) = onNext (setScript ms) (sendRow i a d s) := by
  simp only [sendRow, onNext_ite]
  rfl

theorem startWrite_setScript (a d : Byte) :
    startWrite a d (setScript ms s) = onNext (setScript ms) (startWrite a d s) := by
  simp only [startWrite, onNext_ite]
  rfl

theorem trap_setScript : trap (setScript ms s) = onNext (setScript ms) (trap s) := by
  simp only [trap, onNext_ite]
  rfl

theorem trapReturn_setScript : trapReturn (setScript ms s) = onNext (setScript ms) (trapReturn s) := by
  simp only [trapReturn, setScript_saved]
  cases s.core.saved <;> rfl

theorem afterCount_setScript : afterCount (setScript ms s) = setScript ms (afterCount s) := by
  simp only [afterCount, apply_ite (setScript ms)]
  rfl

theorem raiseFault_setScript (f : FaultCode) (w : Word) :
    raiseFault f w (setScript ms s) = setScript ms (raiseFault f w s) := by
  cases f <;> rfl

/-! ### The instructions and the core's move -/

/-- No instruction reads or writes the script. -/
theorem exec_setScript (i : Instr) : exec i (setScript ms s) = onNext (setScript ms) (exec i s) := by
  cases i with
  | conXfer => exact regWrite_setScript ms s .i2cCon Config.conXferWord
  | conInit => exact regWrite_setScript ms s .i2cCon Config.conInitWord
  | cnt2 | setCount => exact regWrite_setScript ms s .i2cCnt Config.cnt2Word
  | ieXrdy | xrdyEnable => exact regWrite_setScript ms s .i2cIe Config.ieXrdyWord
  | reloadWord v => exact regWrite_setScript ms s .timerReload v
  | timerProgram n => exact regWrite_setScript ms s .timerReload (reloadFor n)
  | gpioClr | timerClr | newirqAck | timerStatusClear | gpioStatusClear | i2cOa | i2cSa | gpioFalldet
  | gpioEdgeConfig | intcReset | intcMasken | timerReset | timerOvfie => exact regWrite_setScript ms s _ _
  | dataByte b | dataWrite b => exact putByte_setScript ms s b
  | phaseCh17 d => exact sendRow_setScript ms s (.phaseCh17 d) _ _
  | phaseCh13 d => exact sendRow_setScript ms s (.phaseCh13 d) _ _
  | phaseCh1b d => exact sendRow_setScript ms s (.phaseCh1b d) _ _
  | phaseCh1f d => exact sendRow_setScript ms s (.phaseCh1f d) _ _
  | brakeAllOff => exact sendRow_setScript ms s .brakeAllOff _ _
  | brakeRelease => exact sendRow_setScript ms s .brakeRelease _ _
  | setupMode1 d => exact sendRow_setScript ms s (.setupMode1 d) _ _
  | setupPrescale d => exact sendRow_setScript ms s (.setupPrescale d) _ _
  | setupMode2 d => exact sendRow_setScript ms s (.setupMode2 d) _ _
  | setupCh0f d => exact sendRow_setScript ms s (.setupCh0f d) _ _
  | setupCh23 d => exact sendRow_setScript ms s (.setupCh23 d) _ _
  | busy => exact pollAgain_setScript ms s
  | completeCheck a => exact checkRead_setScript ms (startPoll a s)
  | write a d => exact startWrite_setScript ms s a d
  | excReturn => exact trapReturn_setScript ms s
  | trapEntry => exact trap_setScript ms s
  | dispatchUnknown =>
    simp only [exec, execDispatchUnknown, setScript_cfg]
    cases s.cfg.unknownIrqPolicy <;> rfl
  | delayByte =>
    simp only [exec, execDelayByte, setScript_cfg]
    cases s.cfg.byteDelayMode <;> rfl
  | rawOvf | dispatch | tick | tickStep | countStep | button | arm | enableInterrupts =>
    simp only [exec, execRawOvf, execDispatch, execTick, execTickStep, execCountStep, execButton, execArm,
      execEnableInterrupts, onNext_ite]
    rfl
  | _ => rfl

theorem idle_setScript : idle (setScript ms s) = onNext (setScript ms) (idle s) := by
  simp only [idle, setScript_ctx, exec_setScript]
  cases s.core.ctx with
  | main =>
    simp only [onNext_ite]
    rfl
  | boot | handler => rfl

/-- The core's move neither looks at the moves to come nor changes them. -/
theorem coreTurn_setScript : coreTurn (setScript ms s) = onNext (setScript ms) (coreTurn s) := by
  simp only [coreTurn, setScript_cont]
  split
  · exact idle_setScript ms s
  · next i k _ => exact exec_setScript ms (setCont k s) i
  · rfl
  · next f w k _ => exact congrArg _ (raiseFault_setScript ms (setCont k s) f w)
  · next k _ => exact congrArg _ (afterCount_setScript ms (setCont k s))
  · next k _ => exact checkRead_setScript ms (setCont k s)
  · next k _ => exact rawRead_setScript ms (setCont k s)
  all_goals rfl

/-- An agent's move neither looks at the moves to come nor changes them. -/
theorem agentMove_setScript (m : Move) : agentMove m (setScript ms s) = setScript ms (agentMove m s) := by
  cases m with
  | core | statBits | rawBits | prefer => rfl
  | timer | press | extra | busLine =>
    simp only [agentMove, timerTick, buttonEdge, raiseExtra, busLine, apply_ite (setScript ms)]
    rfl
  | busShift =>
    simp only [agentMove, busShift, setScript_i2c]
    split
    · simp only [apply_ite (setScript ms)]
      rfl
    · rfl
  | busFinish =>
    simp only [agentMove, busFinish, setScript_i2c]
    cases s.i2c.txn with
    | none => rfl
    | some x =>
      simp only [apply_ite (setScript ms)]
      rfl

end

/-! ### Runs -/

theorem setScript_of_script {s : State} {ms : List Move} (h : s.env.script = ms) : setScript ms s = s := by
  subst h
  rfl

theorem exists_step_of_runs {n : Nat} {s t : State} (h : Runs (n + 1) s t) : ∃ u, step s = .next u ∧ Runs n u t := by
  simp only [Runs, Host.Core.run, Host.Check.core_step] at h
  split at h
  · next u hu => exact ⟨u, hu, h⟩
  · cases h
  · cases h

theorem onNext_eq_next {f : State → State} {o : Out} {t : State} (h : onNext f o = .next t) :
    ∃ u, o = .next u ∧ t = f u := by
  cases o with
  | next u => cases h; exact ⟨u, rfl, rfl⟩
  | fault | refused => cases h

/-- A run under a quiet script, as a run of the core's moves at the front of a script. -/
theorem runs_scripted {n : Nat} {s t : State} (h : Runs n (setScript [] s) t) (ms : List Move) :
    Runs n (setScript (List.replicate n .core ++ ms) s) (setScript ms t) := by
  induction n generalizing s with
  | zero => cases h; exact .refl _
  | succ n ih =>
    obtain ⟨v, hv, hr⟩ := exists_step_of_runs h
    rw [step_quiet rfl, coreTurn_setScript] at hv
    obtain ⟨u, hu, rfl⟩ := onNext_eq_next hv
    refine .step ?_ (ih hr)
    rw [step_core_move rfl, coreTurn_setScript, coreTurn_setScript, hu]
    rfl

theorem runs_trans {m n : Nat} {s u t : State} (h : Runs m s u) (h' : Runs n u t) : Runs (m + n) s t := by
  induction m generalizing s with
  | zero => cases h; rwa [Nat.zero_add]
  | succ m ih =>
    obtain ⟨v, hv, hr⟩ := exists_step_of_runs h
    rw [Nat.add_right_comm]
    exact .step hv (ih hr)

/-- An agent's move at the front of the script. -/
theorem runs_agent {m : Move} (hm : m ≠ .core) (ms : List Move) (s : State) :
    Runs 1 (setScript (m :: ms) s) (setScript ms (agentMove m s)) := by
  rw [← agentMove_setScript]
  exact .step (step_agent_move rfl hm) (.refl _)

end Sys2Proof.Proofs.Script
end

section
/-! The step sequencer (spec/42_step_sequencer.md R140 to R150): what each of its operations does (O25 to O30), and a
stepping tick as the run of their steps under the eager-bus schedule (O43). -/

namespace Sys2Proof.Proofs.Sequencer

open Sys2Proof Sys2Proof.Machine
open Sys2Proof.Proofs.CoreState Sys2Proof.Proofs.CoreMoves Sys2Proof.Proofs.Dispatcher Sys2Proof.Proofs.Master
open Sys2Proof.Proofs.Script

/-! ### The operations of the sequencer

Each rule runs its statement in front of a program `k`. -/

theorem exec_tick_idle {s : State} (h : s.core.armed = false) (k : List Item) :
    exec .tick (setCont k s) = .next (setCont (.op .tickIdle :: k) s) := if_pos h

section
variable {s : State} (ha : s.core.armed = true)
include ha

theorem exec_tick_armed (k : List Item) :
    exec .tick (setCont k s) =
      if s.core.steps = 200 then .next (setCont (.op .tickBrake :: k) s)
      else .next (setCont (.op .tickStep :: k) s) := if_neg (by simp [ha])

theorem exec_tick_limit (hl : s.core.steps = 200) (k : List Item) :
    exec .tick (setCont k s) = .next (setCont (.op .tickBrake :: k) s) :=
  (exec_tick_armed ha k).trans (if_pos hl)

theorem exec_tick_step (hl : s.core.steps ≠ 200) (k : List Item) :
    exec .tick (setCont k s) = .next (setCont (.op .tickStep :: k) s) :=
  (exec_tick_armed ha k).trans (if_neg hl)

theorem exec_tickStep (hl : s.core.steps < 200) (k : List Item) :
    exec .tickStep (setCont k s) = .next
      (setCont (.op (.emitPhase s.core.phase) :: .op .advancePhase :: .op .countStep :: .stepTail :: .catchFail :: k)
        s) := if_pos ⟨ha, hl⟩

end

theorem exec_emitPhase (p : Phase) (k : List Item) (s : State) :
    exec (.emitPhase p) (setCont k s) = .next (setCont (emitPairs (s.cfg.phaseTable.entry p).pairs ++ k) s) := rfl

/-- ADVANCE_PHASE's register (R144). -/
def advancePhase (s : State) : State := { s with core.phase := nextPhase s.core.phase }

/-- COUNT_STEP's register (R145). -/
def countStep (s : State) : State := { s with core.steps := s.core.steps + 1 }

theorem exec_advancePhase (k : List Item) (s : State) :
    exec .advancePhase (setCont k s) = .next (setCont k (advancePhase s)) := rfl

theorem exec_countStep {s : State} (hl : s.core.steps < 200) (k : List Item) :
    exec .countStep (setCont k s) = .next (setCont k (countStep s)) := if_pos hl

theorem nextPhase_toNat (p : Phase) : (nextPhase p).toNat = p.toNat % 4 + 1 := by
  cases p <;> rfl

section
variable {s : State} (hs : s.env.script = [])
include hs

theorem step_stepTail (k : List Item) : step (setCont (.stepTail :: k) s) = .next (afterCount (setCont k s)) :=
  step_quiet hs

theorem step_stepTail_brakes (hb : s.cfg.brakeTick = .sameTick) (hl : s.core.steps = 200) (k : List Item) :
    step (setCont (.stepTail :: k) s) = .next (setCont (.op .tickBrake :: k) s) :=
  (step_stepTail hs k).trans (congrArg _ (if_pos ⟨hb, hl⟩))

theorem step_stepTail_restarts (h : s.cfg.brakeTick = .nextTick ∨ s.core.steps ≠ 200) (k : List Item) :
    step (setCont (.stepTail :: k) s) = .next
      (setCont (.op (.timerProgram s.cfg.stepTicks .stepAdvance) :: k) s) := by
  refine (step_stepTail hs k).trans (congrArg _ (if_neg fun ⟨hb, hl⟩ => ?_))
  rcases h with hn | hne
  · cases hb.symm.trans hn
  · exact hne hl

end

/-- Settles O25, by the two tests of TICK. -/
theorem tickChoosesRow : Obligations.TickChoosesRow :=
  ⟨fun s h => exec_tick_idle h s.core.cont, fun s ha hl => exec_tick_limit ha hl s.core.cont,
    fun s ha hl => exec_tick_step ha hl s.core.cont, fun _ => rfl⟩

/-- Settles O26: TICK_STEP calls its statements, and the step at their tail tests for the limit. -/
theorem tickStepOrder : Obligations.TickStepOrder := by
  refine ⟨fun s ha hl => exec_tickStep ha hl s.core.cont, fun s k hs hk hb hl => ?brake, fun s k hs hk h => ?restart⟩
  case brake =>
    have hstep := step_stepTail_brakes hs hb hl k
    rwa [setCont_of_cont hk] at hstep
  case restart =>
    have hstep := step_stepTail_restarts hs h k
    rwa [setCont_of_cont hk] at hstep

/-- Settles O27: a phase table entry has its four pairs in emission order. -/
theorem emitPhaseOrder : Obligations.EmitPhaseOrder := fun p s => exec_emitPhase p s.core.cont s

/-- Settles O28, by what the two operations do to their registers. -/
theorem advanceAndCount : Obligations.AdvanceAndCount :=
  ⟨fun s => ⟨nextPhase s.core.phase, nextPhase_toNat _, exec_advancePhase s.core.cont s⟩,
    fun s hl => exec_countStep hl s.core.cont⟩

/-- Settles O29: TICK_BRAKE calls its statements, and `BRAKE_DELAY` decides on the delays of BRAKE. -/
theorem brakeSequence : Obligations.BrakeSequence := by
  refine ⟨fun _ => rfl, fun s h => ?undelayed, fun s h => ?delayed⟩
  case undelayed =>
    simp only [exec, execBrake, h]
    rfl
  case delayed =>
    simp only [exec, execBrake, h]
    rfl

/-- Settles O30: RESET_TO_IDLE is the three register writes, and FAIL_STEP is its call. -/
theorem resetToIdleClears : Obligations.ResetToIdleClears := ⟨fun _ => rfl, fun _ => rfl⟩

/-! ### The eager bus -/

/-- What the bus does after a `write` under the eager-bus schedule: both bytes, STOP, and BB clear (60_exceptions.md
R219). -/
def eagerBus (s : State) : State := busLine false (busFinish false (busShift (busShift s)))

theorem runs_eagerBus (ms : List Move) (s : State) :
    Runs 4 (setScript (.busShift :: .busShift :: .busFinish false :: .busLine false :: ms) s)
      (setScript ms (eagerBus s)) :=
  runs_trans (runs_agent (m := .busShift) nofun _ s) <| runs_trans (runs_agent (m := .busShift) nofun _ _) <|
    runs_trans (runs_agent (m := .busFinish false) nofun _ _) (runs_agent (m := .busLine false) nofun ms _)

theorem setBit_clear_of_free {v : Word} (h : v.getLsbD 12 = false) :
    setBit (v ||| 0x00001000#32) Config.bbBit false = v := by
  have hmask : setBit (v ||| 0x00001000#32) Config.bbBit false =
      (v ||| BitVec.twoPow 32 12) &&& ~~~BitVec.twoPow 32 12 := rfl
  rw [hmask]
  ext i hi
  rcases eq_or_ne i 12 with rfl | hne
  · simpa using h
  · simp [hne]

/-- One `write` whole: issued, and sent by the bus, which is free again. -/
def sendWrite (p : Byte × Byte) (s : State) : State :=
  { issueWrite p.1 p.2 s with i2c.stat := s.i2c.stat, i2c.txq := [], i2c.txn := none }

section
variable {s : State} (hform : s.cfg.nackDetect = false) (hfree : s.i2c.stat.getLsbD 12 = false)
  (hq : s.i2c.txq = [])
include hform hfree hq

theorem eagerBus_issueWrite (p : Byte × Byte) (k : List Item) :
    eagerBus (setCont k (issueWrite p.1 p.2 s)) = setCont k (sendWrite p s) := by
  simp [eagerBus, busShift, busFinish, busLine, sendWrite, issueWrite_eq, setCont, hform, hq,
    setBit_clear_of_free hfree]

/-- One `write` under the eager-bus schedule, in front of the program `k`. -/
theorem runs_eagerWrite {k : List Item} (hk : .writeEnd ∉ k) (hmask : s.core.ctx = .main → s.core.imask = true)
    (p : Byte × Byte) (ms : List Move) :
    Runs 14 (setScript (eagerWrite ++ ms) (setCont (.op (.write p.1 p.2) :: k) s))
      (setScript ms (setCont k (sendWrite p s))) := by
  have hcore : Runs 10 (setScript [] (setCont (.op (.write p.1 p.2) :: k) s))
      (setScript [] (setCont k (issueWrite p.1 p.2 s))) := by
    have hrun := runs_write (s := setScript [] s) (a := p.1) (d := p.2) rfl hk hmask hform hfree (.refl _)
    rw [issueWrite_eq] at hrun ⊢
    exact hrun
  rw [← eagerBus_issueWrite hform hfree hq p k]
  exact runs_trans (runs_scripted hcore _) (runs_eagerBus ms (setCont k (issueWrite p.1 p.2 s)))

end

/-! ### The phase writes (R143) -/

/-- Only the program, the trace and the locals of the core have changed, the trace by `es`, and the timer and the bus
are as they were. -/
structure Emits (es : List Event) (s t : State) : Prop where
  core : KeepsCore s t
  trace : t.core.trace = s.core.trace ++ es
  timer : t.timer = s.timer
  stat : t.i2c.stat = s.i2c.stat
  txq : t.i2c.txq = s.i2c.txq
  txn : t.i2c.txn = s.i2c.txn

theorem Emits.refl (s : State) : Emits [] s s := ⟨⟨rfl, rfl⟩, by simp, rfl, rfl, rfl, rfl⟩

theorem Emits.trans {es es' : List Event} {s t u : State} (h : Emits es s t) (h' : Emits es' t u) :
    Emits (es ++ es') s u :=
  ⟨h.core.trans h'.core, by rw [h'.trace, h.trace, List.append_assoc], h'.timer.trans h.timer, h'.stat.trans h.stat,
    h'.txq.trans h.txq, h'.txn.trans h.txn⟩

/-- A handler may send the next phase write: the bus is free, with neither COMPLETE_CHECK nor a timed delay. -/
structure CanSend (s : State) : Prop where
  handler : s.core.ctx = .handler
  unchecked : s.cfg.nackDetect = false
  untimed : s.cfg.byteDelayMode = .abstract
  free : s.i2c.stat.getLsbD 12 = false
  txq : s.i2c.txq = []
  txn : s.i2c.txn = none

theorem CanSend.after {es : List Event} {s t : State} (h : CanSend s) (he : Emits es s t) : CanSend t :=
  ⟨he.core.ctx.trans h.handler, he.core.cfg ▸ h.unchecked, he.core.cfg ▸ h.untimed, he.stat ▸ h.free,
    he.txq.trans h.txq, he.txn.trans h.txn⟩

theorem emits_sendWrite {s : State} (h : CanSend s) (p : Byte × Byte) :
    Emits (writeEvents s.i2c.stat p) s (sendWrite p s) := by
  rw [sendWrite, issueWrite_eq]
  exact ⟨⟨rfl, rfl⟩, rfl, rfl, rfl, h.txq.symm, h.txn.symm⟩

theorem emits_delay (s : State) : Emits [.delay] s (emit .delay s) := ⟨⟨rfl, rfl⟩, rfl, rfl, rfl, rfl, rfl⟩

theorem exec_delayByte_untimed {s : State} (h : s.cfg.byteDelayMode = .abstract) (k : List Item) :
    exec .delayByte (setCont k s) = .next (setCont k (emit .delay s)) := by
  simp only [exec, execDelayByte, setCont_cfg, h]
  rfl

/-- A delay without a timer, on one move of the core. -/
theorem runs_delayByte {s : State} (h : s.cfg.byteDelayMode = .abstract) (k : List Item) (ms : List Move) :
    Runs 1 (setScript (.core :: ms) (setCont (.op .delayByte :: k) s)) (setScript ms (setCont k (emit .delay s))) :=
  .step ((step_core_move rfl).trans <| (coreTurn_op rfl).trans <|
    exec_delayByte_untimed (s := setScript ms s) h k) (.refl _)

theorem writeEnd_not_mem_emitPairs (ps : List (Byte × Byte)) : .writeEnd ∉ emitPairs ps := by
  induction ps with
  | nil => exact List.not_mem_nil
  | cons p ps ih => simpa [emitPairs] using ih

/-- The phase writes under the eager-bus schedule: fifteen moves for each pair, in front of the program `k`. -/
theorem runs_emitPairs {k : List Item} (hk : .writeEnd ∉ k) (ms : List Move) (ps : List (Byte × Byte)) {s : State}
    (h : CanSend s) :
    ∃ t, Runs (15 * ps.length)
        (setScript (ps.flatMap (fun _ => eagerWrite ++ [.core]) ++ ms) (setCont (emitPairs ps ++ k) s))
        (setScript ms (setCont k t))
      ∧ Emits (ps.flatMap (phaseWriteEvents s.i2c.stat)) s t := by
  induction ps generalizing s with
  | nil => exact ⟨s, .refl _, .refl s⟩
  | cons p ps ih =>
    have hpair : Emits (phaseWriteEvents s.i2c.stat p) s (emit .delay (sendWrite p s)) :=
      (emits_sendWrite h p).trans (emits_delay _)
    obtain ⟨t, hrest, hemits⟩ := ih (h.after hpair)
    have hrest' : .writeEnd ∉ .op .delayByte :: (emitPairs ps ++ k) := by
      simp [hk, writeEnd_not_mem_emitPairs]
    have hmask : s.core.ctx = .main → s.core.imask = true := by simp [h.handler]
    have hwrite := runs_eagerWrite h.unchecked h.free h.txq hrest' hmask p
    have hdelay := runs_delayByte (s := sendWrite p s) h.untimed (emitPairs ps ++ k)
    refine ⟨t, ?run, ?emits⟩
    case run =>
      have hcount : 15 * (p :: ps).length = 14 + (1 + 15 * ps.length) := by rw [List.length_cons]; omega
      rw [hcount]
      exact runs_trans (hwrite _) (runs_trans (hdelay _) hrest)
    case emits =>
      rw [hpair.stat] at hemits
      exact hpair.trans hemits

/-! ### A stepping tick -/

/-- A source that is pending alone is delivered, whatever the controller's pick (60_exceptions.md R210). -/
theorem chosen_timer {s : State} (ht : s.pending .timer = true) (hg : s.pending .gpio = false)
    (he : s.pending .extra = false) : s.chosen = .timer := by
  unfold State.chosen
  cases s.env.pick <;> simp [ht, hg, he]

theorem srcRow_timer {c : Params} (htwo : c.unknownIrqPolicy = .twoWay) (h : c.srcWordTimer.getLsbD 2 = false) :
    srcRow c c.srcWordTimer = .dispatchTimer c.srcWordTimer := by
  rw [srcRow_eq_ite, if_neg (by simp [htwo]), if_neg (Bool.eq_false_iff.mp h)]

theorem exec_timerStatusClear (k : List Item) (s : State) :
    exec .timerStatusClear (setCont k s) = .next (setCont k (written .timerStatclr s.cfg.timerClrValue s)) :=
  regWrite_accepted (accepts_timerClr s.cfg)

/-- The timer's branch of a stepping tick up to its phase writes: OVF is cleared, and TICK takes TICK_STEP
(40_dispatcher.md R104; R140, R142). -/
theorem runs_dispatchTimer_step {n : Nat} {s t : State} {w : Word} {k : List Item} (hs : s.env.script = [])
    (ha : s.core.armed = true) (hl : s.core.steps < 200)
    (hr : Runs n (setCont
      (emitPairs (s.cfg.phaseTable.entry s.core.phase).pairs ++
        .op .advancePhase :: .op .countStep :: .stepTail :: .catchFail :: k)
      (written .timerStatclr s.cfg.timerClrValue s)) t) :
    Runs (n + 5) (setCont (.op (.dispatchTimer w) :: k) s) t :=
  .op hs (exec_dispatchTimer w k s) <| .op hs (exec_timerStatusClear _ s) <|
    .op hs (exec_tick_step (s := written .timerStatclr _ s) ha (Nat.ne_of_lt hl) k) <|
    .op hs (exec_tickStep (s := written .timerStatclr _ s) ha hl k) <| .op hs (exec_emitPhase _ _ _) hr

/-- The rest of a stepping tick: the phase advances, the step is counted, and the timer is restarted (R142). -/
theorem runs_finishStep {n : Nat} {s t : State} {k : List Item} (hs : s.env.script = []) (hl : s.core.steps < 200)
    (hrestart : s.cfg.brakeTick = .nextTick ∨ s.core.steps + 1 ≠ 200)
    (hr : Runs n (setCont k (written .timerReload (reloadFor s.cfg.stepTicks) (countStep (advancePhase s)))) t) :
    Runs (n + 5) (setCont (.op .advancePhase :: .op .countStep :: .stepTail :: .catchFail :: k) s) t := by
  have hpass : ∀ u : State, u.env.script = [] → step (setCont (.catchFail :: k) u) = .next (setCont k u) :=
    fun _ hu => step_quiet hu
  exact .op hs (exec_advancePhase _ s) <| .op hs (exec_countStep (s := advancePhase s) hl _) <|
    .step (step_stepTail_restarts (s := countStep (advancePhase s)) hs hrestart _) <|
    .op hs (exec_timerProgram _ _ _ _) <| .step (hpass _ hs) hr

/-- What is left of a stepping tick after its phase writes, with the end of DISPATCH. -/
def tickRest : List Item :=
  [.op .advancePhase, .op .countStep, .stepTail, .catchFail, .op .newirqAck, .op .excReturn]

/-- A timer interrupt taken, its word read and OVF cleared. -/
def tickTaken (s : State) : State :=
  let w := (takeTrap s).intc.active
  written .timerStatclr s.cfg.timerClrValue (holdSource w (emit (.rd .intcActive w) (takeTrap s)))

theorem tickTaken_timer (s : State) : (tickTaken s).timer = { s.timer with ovf := false } := rfl
theorem tickTaken_i2c (s : State) : (tickTaken s).i2c = s.i2c := rfl

theorem tickTaken_trace (s : State) :
    (tickTaken s).core.trace = s.core.trace ++
      [.entry, .rd .intcActive (takeTrap s).intc.active, .wr .timerStatclr s.cfg.timerClrValue] := by
  simp [tickTaken, written_core, holdSource, takeTrap]

/-- A stepping tick after its phase writes, and the return to `c`. -/
def tickReturned (c : Saved) (s : State) : State :=
  let stepped := written .timerReload (reloadFor s.cfg.stepTicks) (countStep (advancePhase s))
  emit .ret (restoreContext c (written .intcNewirq s.cfg.newirqAckValue stepped))

theorem runs_tickTaken {s : State} (hcont : s.core.cont = []) (hd : s.deliverable = true)
    (hi : srcRow s.cfg (takeTrap s).intc.active = .dispatchTimer (takeTrap s).intc.active)
    (ha : s.core.armed = true) (hl : s.core.steps < 200) :
    Runs 9 (setScript [] s)
      (setScript [] (setCont (emitPairs (s.cfg.phaseTable.entry s.core.phase).pairs ++ tickRest) (tickTaken s))) :=
  runs_entry (s := setScript [] s) rfl hcont hd <| runs_dispatch rfl nofun hi <|
    runs_dispatchTimer_step rfl ha hl (.refl _)

theorem runs_tickReturned {s : State} {c : Saved} (hc : s.core.saved = some c) (hl : s.core.steps < 200)
    (hrestart : s.cfg.brakeTick = .nextTick ∨ s.core.steps + 1 ≠ 200) :
    Runs 7 (setScript [] (setCont tickRest s)) (setScript [] (setCont [] (tickReturned c s))) :=
  runs_finishStep (s := setScript [] s) rfl hl hrestart <| runs_acknowledge_return rfl hc (.refl _)

/-- Settles O43: the delivery and the timer's branch up to its phase writes, the four writes, and the rest of the tick
with the return. -/
theorem steppingTickWhole : Obligations.SteppingTickWhole := by
  intro s ⟨hmain, hcont⟩ hscript hmask hgate harmed hsteps htwo hform hdelay hovf hovfie hen hgpio hextra hbit hfree
    hq hn
  have htimer : s.pending .timer = true := by simp [State.pending, hovf, hovfie, hen]
  have hdeliver : s.deliverable = true := by simp [State.deliverable, State.anyPending, hmain, hmask, hgate, htimer]
  have hactive : (takeTrap s).intc.active = s.cfg.srcWordTimer := by
    rw [takeTrap_active, chosen_timer htimer hgpio hextra]
    rfl
  have hrow : srcRow s.cfg (takeTrap s).intc.active = .dispatchTimer (takeTrap s).intc.active := by
    rw [hactive, srcRow_timer htwo hbit]
  have hl : s.core.steps < 200 := by omega
  have hrestart : s.cfg.brakeTick = .nextTick ∨ s.core.steps + 1 ≠ 200 :=
    hsteps.symm.imp And.left fun h => by omega
  obtain ⟨u, hwrites, hu⟩ := runs_emitPairs (k := tickRest) (by decide) (List.replicate 7 .core)
    (s.cfg.phaseTable.entry s.core.phase).pairs (s := tickTaken s) ⟨rfl, hform, hdelay, hfree, hq, hn⟩
  have hucfg : u.cfg = s.cfg := hu.core.cfg
  have husteps : u.core.steps = s.core.steps := hu.core.steps
  have hreturned := runs_tickReturned hu.core.saved (husteps ▸ hl) (by rwa [hucfg, husteps])
  have hrun : Runs 76 (setScript eagerTick s) _ :=
    runs_trans (runs_scripted (runs_tickTaken hcont hdeliver hrow harmed hl) _) <|
      runs_trans hwrites (runs_scripted hreturned [])
  rw [setScript_of_script hscript] at hrun
  refine ⟨_, reloadFor s.cfg.stepTicks, reloadFor_toNat _, hrun, ?fields⟩
  case fields =>
    have huarmed : u.core.armed = true := hu.core.armed.trans harmed
    have huphase : u.core.phase = s.core.phase := hu.core.phase
    simp [AtMain, tickReturned, restoreContext, written, deviceEffect, countStep, advancePhase, nextPhase_toNat,
      hucfg, husteps, huarmed, huphase, hu.trace, hu.timer, hu.stat, hu.txq, hu.txn, tickTaken_timer, tickTaken_i2c,
      tickTaken_trace, hactive, hq, hn]

end Sys2Proof.Proofs.Sequencer
end

section
/-! The button handler (spec/43_button_handler.md R160 to R162): what each of its operations does (O31). -/

namespace Sys2Proof.Proofs.Button

open Sys2Proof Sys2Proof.Machine
open Sys2Proof.Proofs.Dispatcher

/-- An edge during a run is row 4 of the table (R160, R162). -/
theorem exec_button_stepping {s : State} (h : s.core.armed = true) (k : List Item) :
    exec .button (setCont k s) = .next (setCont (.op .buttonIgnored :: k) s) := if_neg (by simp [h])

/-- Settles O31: BUTTON by the register it tests, ARM under its precondition, and BUTTON_IGNORED, which returns. -/
theorem buttonArmsWhenIdle : Obligations.ButtonArmsWhenIdle :=
  ⟨fun s h => exec_button_idle h s.core.cont, fun s h => exec_button_stepping h s.core.cont,
    fun s h => exec_arm_idle h s.core.cont, fun _ => rfl⟩

end Sys2Proof.Proofs.Button
end

section
/-! The peripheral operations, run-time and boot (spec/44_peripheral_ops.md R170 to R181): what each of them does (O32 to
O38). -/

namespace Sys2Proof.Proofs.Peripheral

open Sys2Proof Sys2Proof.Machine
open Sys2Proof.Proofs.CoreMoves Sys2Proof.Proofs.Dispatcher Sys2Proof.Proofs.Sequencer

/-! ### The reload word, the status clears and the acknowledgement (R170 to R173) -/

/-- The reload value is the counter's at once (R170). -/
theorem written_timerReload (v : Word) (s : State) :
    written .timerReload v s =
      { s with core.trace := s.core.trace ++ [.wr .timerReload v], timer.reload := v, timer.count := v } := rfl

/-- The counter is left alone (R171). -/
theorem written_timerStatclr (v : Word) (s : State) :
    written .timerStatclr v s = { s with core.trace := s.core.trace ++ [.wr .timerStatclr v], timer.ovf := false } := rfl

theorem written_gpioStatclr (v : Word) (s : State) :
    written .gpioStatclr v s = { s with core.trace := s.core.trace ++ [.wr .gpioStatclr v], gpio.latch := false } := rfl

theorem written_intcNewirq (v : Word) (s : State) :
    written .intcNewirq v s = { s with core.trace := s.core.trace ++ [.wr .intcNewirq v], intc.gate := true } := rfl

/-- The button line's word has that line's bit alone (R172). -/
theorem buttonWord_eq (c : Params) : buttonWord c = 1#32 <<< c.buttonLine.val := rfl

theorem exec_reloadWord (v : Word) (k : List Item) (s : State) :
    exec (.reloadWord v) (setCont k s) = .next (setCont k (written .timerReload v s)) :=
  regWrite_accepted (s := setCont k s) (accepts_reload s.cfg v)

/-- Settles O32: TIMER_PROGRAM is the reload write of the negated count, and RELOAD_WORD that of any word. -/
theorem timerProgramLoads : Obligations.TimerProgramLoads := by
  refine ⟨fun n p s => ⟨reloadFor n, reloadFor_toNat n, ?_⟩, fun v s => ?_⟩ <;> rw [← written_timerReload]
  · exact exec_timerProgram n p s.core.cont s
  · exact exec_reloadWord v s.core.cont s

/-- Settles O33: each operation and the row of its word are the one register write. -/
theorem statusClearsAndAck : Obligations.StatusClearsAndAck := by
  intro s
  have htimer := exec_timerStatusClear s.core.cont s
  have hgpio := exec_gpioStatusClear s.core.cont s
  have hack := exec_newirqAck s.core.cont s
  rw [written_timerStatclr] at htimer
  rw [written_gpioStatclr, buttonWord_eq] at hgpio
  rw [written_intcNewirq] at hack
  exact ⟨htimer, htimer, hgpio, hgpio, hack⟩

/-! ### DELAY_BYTE (R174) -/

section
variable {s : State} (hform : s.cfg.byteDelayMode = .timer)
include hform

theorem exec_delayByte_timed (k : List Item) :
    exec .delayByte (setCont k s) = .next
      (setCont (.op (.timerProgram s.cfg.byteTicks .byteSpacing) :: .rawLoop :: .op .timerStatusClear :: k)
        (emit .delay s)) := by
  simp only [exec, execDelayByte, setCont_cfg, hform]
  rfl

theorem readable_timerRawstat : s.readable .timerRawstat = some s.rawWord := if_pos hform

theorem rawRead_holds (ho : s.timer.ovf = false) : rawRead s = .next (call [.rawLoop] s) := if_pos ⟨hform, ho⟩

theorem rawRead_reads (ho : s.timer.ovf = true) :
    rawRead s = .next (call [.op (.rawOvf s.rawWord)] (emit (.rd .timerRawstat s.rawWord) s)) :=
  (if_neg fun ⟨_, hclear⟩ => absurd (ho.symm.trans hclear) (by decide)).trans
    (regRead_next.mpr ⟨s.rawWord, readable_timerRawstat hform, rfl⟩)

end

theorem coreTurn_rawLoop {s : State} {k : List Item} (h : s.core.cont = .rawLoop :: k) :
    coreTurn s = rawRead (setCont k s) := by
  simp only [coreTurn, h]

theorem exec_rawOvf_set {v : Word} {s : State} (h : v.getLsbD s.cfg.ovfBit = true) :
    exec (.rawOvf v) s = .next s := if_pos h

theorem exec_rawOvf_clear {v : Word} {s : State} (h : v.getLsbD s.cfg.ovfBit = false) :
    exec (.rawOvf v) s = .next (call [.rawLoop] s) := if_neg (Bool.eq_false_iff.mp h)

/-- Settles O34: DELAY_BYTE by its mode, a step at the hold by OVF, and RAW_OVF by the bit of its word. -/
theorem delayByteModes : Obligations.DelayByteModes := by
  refine ⟨fun s h => exec_delayByte_untimed h s.core.cont, fun s h => exec_delayByte_timed h s.core.cont,
    fun s k hform hs hk ho => ?holds, fun s k hform hs hk ho => ⟨s.rawWord, ?shows, ?reads⟩,
    fun _ _ h => exec_rawOvf_set h, fun _ _ h => exec_rawOvf_clear h⟩
  case holds =>
    rw [step_quiet hs, coreTurn_rawLoop hk, rawRead_holds (s := setCont k s) hform ho]
    exact congrArg _ (setCont_of_cont hk)
  case shows => exact (rawWord_bit s).trans ho
  case reads =>
    rw [step_quiet hs, coreTurn_rawLoop hk]
    exact rawRead_reads (s := setCont k s) hform ho

/-! ### The boot words (R175 to R178)

Each rule runs its statement in front of a program `k`. -/

/-- The init word starts no transaction (R175). -/
theorem written_conInit (s : State) :
    written .i2cCon Config.conInitWord s =
      { s with core.trace := s.core.trace ++ [.wr .i2cCon 0x00008000#32], i2c.con := 0x00008000#32 } := rfl

theorem written_gpioFalldet (v : Word) (s : State) :
    written .gpioFalldet v s = { s with core.trace := s.core.trace ++ [.wr .gpioFalldet v], gpio.falldet := v } := rfl

/-- A mask word enables the sources whose value it is (R177). -/
theorem written_intcMasken (v : Word) (s : State) :
    written .intcMasken v s =
      { s with
        core.trace := s.core.trace ++ [.wr .intcMasken v]
        intc.enTimer := s.intc.enTimer || decide (v = s.cfg.maskenTimerValue)
        intc.enGpio := s.intc.enGpio || decide (v = s.cfg.maskenGpioValue) } := rfl

/-- The reset draws the counter and the reload value (60_exceptions.md R216). -/
theorem written_timerReset (v : Word) (s : State) :
    written .timerReset v s =
      { s with
        core.trace := s.core.trace ++ [.wr .timerReset v]
        timer.count := Config.freeWord s.fresh
        timer.reload := Config.freeWord (s.fresh + 1)
        timer.ovf := false
        timer.ovfie := false
        fresh := s.fresh + 2 } := rfl

theorem exec_i2cOa (k : List Item) (s : State) :
    exec .i2cOa (setCont k s) = .next (setCont k (written .i2cOa s.cfg.ownAddr s)) :=
  regWrite_accepted (accepts_oa s.cfg)

theorem exec_i2cSa (k : List Item) (s : State) :
    exec .i2cSa (setCont k s) = .next (setCont k (written .i2cSa s.cfg.slaveAddr s)) :=
  regWrite_accepted (accepts_sa s.cfg)

theorem exec_conInit (k : List Item) (s : State) :
    exec .conInit (setCont k s) = .next (setCont k (written .i2cCon Config.conInitWord s)) :=
  regWrite_accepted (s := setCont k s) (accepts_conInit s.cfg)

theorem exec_gpioEdgeConfig (k : List Item) (s : State) :
    exec .gpioEdgeConfig (setCont k s) = .next (setCont k (written .gpioFalldet (buttonWord s.cfg) s)) :=
  regWrite_accepted (accepts_gpioFalldet s.cfg)

theorem exec_intcReset (k : List Item) (s : State) :
    exec .intcReset (setCont k s) = .next (setCont k (written .intcReset s.cfg.intcResetValue s)) :=
  regWrite_accepted (accepts_intcReset s.cfg)

theorem exec_intcMasken {v : Word} {s : State} (h : v = s.cfg.maskenTimerValue ∨ v = s.cfg.maskenGpioValue)
    (k : List Item) : exec (.intcMasken v) (setCont k s) = .next (setCont k (written .intcMasken v s)) :=
  regWrite_accepted (s := setCont k s) ((accepts_intcMasken s.cfg v).mpr h)

theorem exec_timerReset (k : List Item) (s : State) :
    exec .timerReset (setCont k s) = .next (setCont k (written .timerReset s.cfg.timerResetValue s)) :=
  regWrite_accepted (accepts_timerReset s.cfg)

theorem exec_timerOvfie (k : List Item) (s : State) :
    exec .timerOvfie (setCont k s) = .next (setCont k (written .timerOvfie s.cfg.ovfieValue s)) :=
  regWrite_accepted (accepts_timerOvfie s.cfg)

/-- Settles O35: I2C_INIT calls its three writes; the edge-detect operation and the row of its word are one write. -/
theorem bootConfiguresI2cAndGpio : Obligations.BootConfiguresI2cAndGpio := by
  intro s
  have hcon := exec_conInit s.core.cont s
  have hedge := exec_gpioEdgeConfig s.core.cont s
  rw [written_conInit] at hcon
  rw [written_gpioFalldet, buttonWord_eq] at hedge
  exact ⟨rfl, exec_i2cOa s.core.cont s, exec_i2cSa s.core.cont s, hcon, hedge, hedge⟩

/-- Settles O36: the two configurations call their writes, and each write has its device effect. -/
theorem bootConfiguresIntcAndTimer : Obligations.BootConfiguresIntcAndTimer := by
  refine ⟨fun s => ⟨rfl, exec_intcReset s.core.cont s, fun v hv => ?mask⟩, fun _ => rfl,
    fun s => ⟨Config.freeWord s.fresh, Config.freeWord (s.fresh + 1), ?reset⟩, fun s => exec_timerOvfie s.core.cont s⟩
  case mask =>
    rw [← written_intcMasken]
    exact exec_intcMasken hv s.core.cont
  case reset =>
    rw [← written_timerReset]
    exact exec_timerReset s.core.cont s

/-! ### PWM_SETUP and the interrupt mask (R179 to R181) -/

/-- The statements of PWM_SETUP, pair by pair (R179). -/
theorem setupPairs_eq_flatMap (ps : List (Byte × Byte)) :
    setupPairs ps = ps.flatMap fun p => [.op (.write p.1 p.2), .catchBoot] := by
  induction ps with
  | nil => rfl
  | cons p ps ih => rw [setupPairs, ih]; rfl

theorem exec_pwmSetup (k : List Item) (s : State) :
    exec .pwmSetup (setCont k s) = .next (setCont (setupPairs s.cfg.pwmSetupSeq ++ k) s) := rfl

/-- Settles O37: PWM_SETUP calls the statements of its pairs. -/
theorem pwmSetupSendsSequence : Obligations.PwmSetupSendsSequence := by
  intro s
  rw [← setupPairs_eq_flatMap]
  exact exec_pwmSetup s.core.cont s

/-- Boot's end: interrupts open, in the main loop (R180). -/
def enterMain (s : State) : State := { s with core.imask := false, core.ctx := .main }

theorem exec_enableInterrupts {s : State} (h : s.core.ctx ≠ .handler) (k : List Item) :
    exec .enableInterrupts (setCont k s) = .next (setCont k (enterMain s)) := if_neg h

/-- Settles O38: outside a handler the unmasking is allowed, and the masking has no test. -/
theorem interruptMaskOperations : Obligations.InterruptMaskOperations :=
  ⟨fun s h => exec_enableInterrupts h s.core.cont, fun _ => rfl⟩

end Sys2Proof.Proofs.Peripheral
end

section
/-! What a step does to the bus and the interrupt controller (spec/60_exceptions.md R219, R207), with the context and the
events it appends: the rules the statements about the exceptions and the environment share. -/

namespace Sys2Proof.Proofs.Devices

open Sys2Proof Sys2Proof.Machine
open Sys2Proof.Proofs.Scope Sys2Proof.Proofs.CoreState Sys2Proof.Proofs.Script

/-- The event of a register write; the data register's write may hand a transaction over with it (41 R126). -/
def WriteTraced (r : Reg) (v : Word) (s t : State) : Prop :=
  t.core.trace = s.core.trace ++ [.wr r v]
    ∨ (r = .i2cData ∧ ∃ a d, t.core.trace = s.core.trace ++ [.wr r v, .xact a d])

theorem WriteTraced.event {r : Reg} {v : Word} {s t : State} (h : WriteTraced r v s t) (hr : r ≠ .i2cData) :
    t.core.trace = s.core.trace ++ [.wr r v] :=
  h.resolve_right fun hdata => hr hdata.1

/-- What the core's move touches of the bus, the controller and the context. -/
inductive Touches (s t : State) : Prop where
  /-- No device and no register; outside a handler it may enter Main (44 R180). -/
  | nothing (hi2c : t.i2c = s.i2c) (hintc : t.intc = s.intc)
      (hctx : t.core.ctx = s.core.ctx ∨ (s.core.ctx ≠ .handler ∧ t.core.ctx = .main))
      (htrace : ∃ es, t.core.trace = s.core.trace ++ es ∧ ∀ r v, .wr r v ∉ es)
  /-- One register, by a word it accepts. -/
  | register (r : Reg) (v : Word) (hv : accepts s.cfg r v = true) (hi2c : t.i2c = (written r v s).i2c)
      (hintc : t.intc = (written r v s).intc) (hctx : t.core.ctx = s.core.ctx)
      (htrace : WriteTraced r v s t)
  /-- The delivery of an interrupt (60 R209). -/
  | delivery (hd : s.deliverable = true) (hi2c : t.i2c = s.i2c)
      (hintc : ∃ w, t.intc = { s.intc with active := w, gate := false }) (hctx : t.core.ctx = .handler)
      (htrace : t.core.trace = s.core.trace ++ [.entry])
  /-- The exception return (40 R106). -/
  | leaves (hi2c : t.i2c = s.i2c) (hintc : t.intc = s.intc) (hctx : t.core.ctx = .main)
      (hsaved : t.core.saved = none) (htrace : t.core.trace = s.core.trace ++ [.ret])

theorem written_setCont (r : Reg) (v : Word) (k : List Item) (s : State) :
    written r v (setCont k s) = setCont k (written r v s) := by
  cases r with
  | i2cCon =>
    simp only [written, deviceEffect, writeCon]
    split <;> rfl
  | _ => rfl

/-- A CON write touches the bus alone. -/
theorem written_i2cCon_intc (v : Word) (s : State) : (written .i2cCon v s).intc = s.intc := by
  simp only [written, deviceEffect, writeCon]
  split <;> rfl

/-- The program that is still to run does not matter. -/
theorem Touches.of_setCont {k : List Item} {s t : State} (h : Touches (setCont k s) t) : Touches s t := by
  cases h with
  | nothing hi2c hintc hctx htrace => exact .nothing hi2c hintc hctx htrace
  | register r v hv hi2c hintc hctx htrace =>
    rw [written_setCont] at hi2c hintc
    exact .register r v hv hi2c hintc hctx htrace
  | delivery hd hi2c hintc hctx htrace => exact .delivery hd hi2c hintc hctx htrace
  | leaves hi2c hintc hctx hsaved htrace => exact .leaves hi2c hintc hctx hsaved htrace

/-- The moves to come do not matter. -/
theorem Touches.setScript {s t : State} (h : Touches s t) (ms : List Move) : Touches s (setScript ms t) := by
  cases h with
  | nothing hi2c hintc hctx htrace => exact .nothing hi2c hintc hctx htrace
  | register r v hv hi2c hintc hctx htrace => exact .register r v hv hi2c hintc hctx htrace
  | delivery hd hi2c hintc hctx htrace => exact .delivery hd hi2c hintc hctx htrace
  | leaves hi2c hintc hctx hsaved htrace => exact .leaves hi2c hintc hctx hsaved htrace

/-- With neither a device nor the trace touched, and the context kept. -/
theorem Touches.of_unchanged {s t : State} (hi2c : t.i2c = s.i2c) (hintc : t.intc = s.intc)
    (hctx : t.core.ctx = s.core.ctx) (htrace : t.core.trace = s.core.trace) : Touches s t :=
  .nothing hi2c hintc (.inl hctx) ⟨[], by simp [htrace], nofun⟩

theorem touches_of_calls {is : List Item} {s t : State} (h : Calls is s t) : Touches s t := by
  obtain ⟨hp, -, htrace⟩ := h
  have hi2c : t.i2c = s.i2c := by rw [hp]
  have hintc : t.intc = s.intc := by rw [hp]
  have hctx : t.core.ctx = s.core.ctx := by rw [hp]
  rcases htrace with ht | ⟨r, v, ht⟩ | ht
  · exact .of_unchanged hi2c hintc hctx ht
  · exact .nothing hi2c hintc (.inl hctx) ⟨[.rd r v], ht, by simp⟩
  · exact .nothing hi2c hintc (.inl hctx) ⟨[.delay], ht, by simp⟩

theorem touches_of_writes {s t : State} (h : Writes s t) : Touches s t := by
  have hctx := (keepsCore_of_writes h).ctx
  obtain ⟨r, v, hv, rfl | ⟨rfl, rfl⟩⟩ := h
  · exact .register r v hv rfl rfl hctx (.inl (written_trace r v s))
  · rcases handOver_cases (written .i2cData v s) with ⟨a, d, k, -, h⟩ | h <;> rw [h] at hctx ⊢
    · exact .register .i2cData v hv rfl rfl hctx (.inr ⟨rfl, a, d, by simp [written_trace]⟩)
    · exact .register .i2cData v hv rfl rfl hctx (.inl (written_trace .i2cData v s))

theorem exec_touches {i : Instr} {s t : State} (h : exec i s = .next t) : Touches s t := by
  cases exec_effect h with
  | calls _ is _ hc => exact touches_of_calls hc
  | writes _ _ hw => exact touches_of_writes hw
  | faults _ f w _ hc => exact touches_of_calls hc
  | tickStep | advancePhase | countStep | resetToIdle | arm | unknown | disable =>
    exact .of_unchanged rfl rfl rfl rfl
  | enable hc => exact .nothing rfl rfl (.inr ⟨hc, rfl⟩) ⟨[], by simp, nofun⟩
  | excReturn => exact .leaves rfl rfl rfl rfl rfl
  | trapEntry _ hd => exact .delivery hd rfl ⟨_, rfl⟩ rfl rfl

theorem raiseFault_touches (f : FaultCode) (w : Word) (s : State) : Touches s (raiseFault f w s) := by
  obtain ⟨k, h⟩ := raiseFault_eq f w s
  rw [h]
  exact .nothing rfl rfl (.inl rfl) ⟨[.fault f w], rfl, by simp⟩

theorem markEffect_touches {x : Item} {s t : State} (h : MarkEffect s x t) : Touches s t := by
  cases h with
  | calls is hc => exact touches_of_calls hc
  | faults f w hc => exact touches_of_calls hc

theorem coreTurn_touches {s t : State} (h : coreTurn s = .next t) : Touches s t := by
  rcases coreTurn_head h with ⟨i, k, -, h⟩ | ⟨f, w, k, -, rfl⟩ | ⟨x, k, -, -, -, h⟩ | ⟨-, h⟩ | ⟨-, rfl⟩
  · exact (exec_touches h).of_setCont
  · exact (raiseFault_touches f w _).of_setCont
  · exact (markEffect_touches h).of_setCont
  · exact exec_touches h
  · exact .of_unchanged rfl rfl rfl rfl

theorem onNext_eq_next {f : State → State} {o : Out} {t : State} (h : onNext f o = .next t) :
    ∃ u, o = .next u ∧ t = f u := by
  cases o with
  | next u => exact ⟨u, rfl, by cases h; rfl⟩
  | fault => cases h
  | refused => cases h

/-- A step is an agent's move, or the core's, which touches what `Touches` says (20 R64). -/
theorem step_touches {s t : State} (h : step s = .next t) :
    (∃ m ms, t = setScript ms (agentMove m s)) ∨ Touches s t := by
  rcases step_cases h with ⟨m, ms, -, -, rfl⟩ | ⟨ms, -, h⟩
  · exact .inl ⟨m, ms, agentMove_setScript ms s m⟩
  · rw [coreTurn_setScript] at h
    obtain ⟨u, hu, rfl⟩ := onNext_eq_next h
    exact .inr ((coreTurn_touches hu).setScript ms)

end Sys2Proof.Proofs.Devices
end

section
/-! The bus side (spec/60_exceptions.md R219): BB stays set while a transaction is in progress (O55), and the transmit
queue keeps its bytes in order (O47). -/

namespace Sys2Proof.Proofs.Bus

open Sys2Proof Sys2Proof.Machine
open Sys2Proof.Proofs.RoundTrip Sys2Proof.Proofs.Devices

/-! ### Register writes -/

/-- What a register write does to the bus: the data register queues a byte (41 R125), the transfer word starts a
transaction with BB (41 R123), and no other write touches the queue, the transaction or the status. -/
inductive WriteOnBus (r : Reg) (v : Word) (a b : I2c) : Prop where
  | queues (hr : r = .i2cData) (hq : b.txq = a.txq ++ [lowByte v]) (hx : b.txn = a.txn) (hst : b.stat = a.stat)
  | starts (hr : r = .i2cCon) (hv : v = Config.conXferWord) (hq : b.txq = a.txq)
      (hx : b.txn = some { count := a.cnt.toNat, sent := [] }) (hst : b.stat.bit Config.bbBit = true)
  | neither (hr : r ≠ .i2cData) (hq : b.txq = a.txq) (hx : b.txn = a.txn) (hst : b.stat = a.stat)

theorem written_onBus (r : Reg) (v : Word) (s : State) : WriteOnBus r v s.i2c (written r v s).i2c := by
  cases r with
  | i2cData => exact .queues rfl rfl rfl rfl
  | i2cCon =>
    simp only [written, deviceEffect, writeCon]
    split
    · next hv => exact .starts rfl hv rfl rfl (setBit_bit_self _ _)
    · exact .neither nofun rfl rfl rfl
  | _ => exact .neither nofun rfl rfl rfl

/-! ### The agents' moves -/

/-- What an agent's move does to the bus: shift, finish, or a change of the status bits that leaves BB during a
transaction (R219). -/
inductive AgentOnBus (a b : I2c) : Prop where
  | nothing (h : b = a)
  | shift (x : Txn) (y : Byte) (q : List Byte) (hx : a.txn = some x) (hq : a.txq = y :: q)
      (hlt : x.sent.length < x.count)
      (h : b = { a with txq := q, txn := some { x with sent := x.sent ++ [y] } })
  | finish (x : Txn) (hx : a.txn = some x) (hle : x.count ≤ x.sent.length) (hq : b.txq = a.txq) (hn : b.txn = none)
  | status (w : Word) (h : b = { a with stat := w })
      (hbb : a.txn = none ∨ w.bit Config.bbBit = a.stat.bit Config.bbBit)

theorem busShift_onBus (s : State) : AgentOnBus s.i2c (busShift s).i2c := by
  unfold busShift
  split
  · next x y q hx hq =>
    split
    · next hlt => exact .shift x y q hx hq hlt rfl
    · exact .nothing rfl
  · exact .nothing rfl

theorem busFinish_onBus (nack : Bool) (s : State) : AgentOnBus s.i2c (busFinish nack s).i2c := by
  unfold busFinish
  split
  · next x hx =>
    split
    · exact .nothing rfl
    · next hle => split <;> exact .finish x hx (Nat.le_of_not_lt hle) rfl rfl
  · exact .nothing rfl

theorem busLine_onBus (bb : Bool) (s : State) : AgentOnBus s.i2c (busLine bb s).i2c := by
  unfold busLine
  split
  · next hn => exact .status _ rfl (.inl hn)
  · exact .nothing rfl

theorem statBits_onBus (w : Word) (s : State) : AgentOnBus s.i2c (statBits w s).i2c :=
  .status _ rfl (.inr (setBit_bit_self _ _))

theorem agentMove_onBus (m : Move) (s : State) : AgentOnBus s.i2c (agentMove m s).i2c := by
  cases m with
  | busShift => exact busShift_onBus s
  | busFinish nack => exact busFinish_onBus nack s
  | busLine bb => exact busLine_onBus bb s
  | statBits w => exact statBits_onBus w s
  | core | rawBits | prefer => exact .nothing rfl
  | timer | press | extra =>
    refine .nothing ?_
    simp only [agentMove, timerTick, buttonEdge, raiseExtra]
    (repeat' split) <;> rfl

/-! ### BB during a transaction -/

/-- `BusyWhileSending` reads the bus alone. -/
def BusyBus (a : I2c) : Prop := a.txn ≠ none → a.stat.bit Config.bbBit = true

theorem busyBus_of_eq {a b : I2c} (ha : BusyBus a) (hx : b.txn = a.txn) (hst : b.stat = a.stat) : BusyBus b := by
  rwa [BusyBus, hx, hst]

theorem WriteOnBus.busy {r : Reg} {v : Word} {a b : I2c} (ha : BusyBus a) (h : WriteOnBus r v a b) : BusyBus b := by
  cases h with
  | queues _ _ hx hst => exact busyBus_of_eq ha hx hst
  | starts _ _ _ _ hst => exact fun _ => hst
  | neither _ _ hx hst => exact busyBus_of_eq ha hx hst

theorem AgentOnBus.busy {a b : I2c} (ha : BusyBus a) (h : AgentOnBus a b) : BusyBus b := by
  cases h with
  | nothing h => exact h ▸ ha
  | shift x y q hx _ _ h =>
    have hbusy : a.stat.bit Config.bbBit = true := ha (by simp [hx])
    subst h
    exact fun _ => hbusy
  | finish x _ _ _ hn => exact fun hne => absurd hn hne
  | status w h hbb =>
    subst h
    intro hne
    rw [hbb.resolve_left hne]
    exact ha hne

theorem touches_busy {s t : State} (hs : BusyBus s.i2c) (h : Touches s t) : BusyBus t.i2c := by
  cases h with
  | nothing hi2c => rwa [hi2c]
  | register r v _ hi2c => exact hi2c ▸ (written_onBus r v s).busy hs
  | delivery _ hi2c => rwa [hi2c]
  | leaves hi2c => rwa [hi2c]

/-- Settles O55: a transaction starts with BB, and only the bus agent clears it, outside a transaction. -/
theorem busyWhileSendingKept : Obligations.BusyWhileSendingKept := by
  intro s t hs h
  rcases step_touches h with ⟨m, ms, rfl⟩ | h
  · exact (agentMove_onBus m s).busy hs
  · exact touches_busy hs h

/-! ### The transmit queue -/

/-- A step that writes no data register (R219): it leaves the queue, and the bytes already sent unless it starts a
transaction or stops one that is sent whole. -/
structure LeavesQueue (s t : State) : Prop where
  queue : t.i2c.txq = s.i2c.txq
  trace : ∃ es, t.core.trace = s.core.trace ++ es ∧ ∀ v, .wr .i2cData v ∉ es
  txn : t.i2c.txn = s.i2c.txn
    ∨ (∃ n, t.i2c.txn = some { count := n, sent := [] } ∧ t.core.trace = s.core.trace ++ [.wr .i2cCon 0x00008603#32])
    ∨ (∃ x, s.i2c.txn = some x ∧ x.count ≤ x.sent.length ∧ t.i2c.txn = none)

/-- A step that writes the data register queues the byte last and sends nothing (41 R125, R126). -/
structure QueuesByte (b : Byte) (s t : State) : Prop where
  queue : t.i2c.txq = s.i2c.txq ++ [b]
  txn : t.i2c.txn = s.i2c.txn
  trace : t.core.trace = s.core.trace ++ [.wr .i2cData (BitVec.setWidth 32 b)]
    ∨ ∃ a d, t.core.trace = s.core.trace ++ [.wr .i2cData (BitVec.setWidth 32 b), .xact a d]

/-- A shift sends the head and takes it off (R219). -/
structure SendsHead (b : Byte) (x : Txn) (s t : State) : Prop where
  queue : s.i2c.txq = b :: t.i2c.txq
  before : s.i2c.txn = some x
  room : x.sent.length < x.count
  after : t.i2c.txn = some { x with sent := x.sent ++ [b] }
  trace : t.core.trace = s.core.trace

/-- What becomes of the queue in one step. -/
def QueueKept (s t : State) : Prop :=
  LeavesQueue s t ∨ (∃ b, QueuesByte b s t) ∨ ∃ b x, SendsHead b x s t

theorem queueKept_of_bus_eq {s t : State} (hi2c : t.i2c = s.i2c)
    (htrace : ∃ es, t.core.trace = s.core.trace ++ es ∧ ∀ v, .wr .i2cData v ∉ es) : QueueKept s t :=
  .inl ⟨by rw [hi2c], htrace, .inl (by rw [hi2c])⟩

/-- A word the data register takes is its low byte, zero-extended (30 R86). -/
theorem eq_dataWord_of_accepts {c : Params} {v : Word} (h : accepts c .i2cData v = true) : v = dataWord (lowByte v) := by
  obtain ⟨i, hi⟩ := Option.isSome_iff_exists.mp (show (dataRow v).isSome = true from h)
  obtain ⟨b, rfl, -⟩ := dataRow_eq_some.mp hi
  rw [lowByte_dataWord]

theorem queueKept_of_register {r : Reg} {v : Word} {s t : State} (hv : accepts s.cfg r v = true)
    (hbus : WriteOnBus r v s.i2c t.i2c)
    (htrace : WriteTraced r v s t) : QueueKept s t := by
  cases hbus with
  | queues hr hq hx =>
    subst hr
    have hword : v = BitVec.setWidth 32 (lowByte v) := eq_dataWord_of_accepts hv
    refine .inr (.inl ⟨lowByte v, hq, hx, ?_⟩)
    rw [← hword]
    exact htrace.imp_right And.right
  | starts hr hword hq hx =>
    subst hr hword
    have htrace := htrace.event nofun
    exact .inl ⟨hq, ⟨_, htrace, by simp⟩, .inr (.inl ⟨_, hx, htrace⟩)⟩
  | neither hr hq hx =>
    have htrace := htrace.event hr
    exact .inl ⟨hq, ⟨_, htrace, by simp [hr.symm]⟩, .inl hx⟩

theorem queueKept_of_touches {s t : State} (h : Touches s t) : QueueKept s t := by
  cases h with
  | nothing hi2c _ _ htrace =>
    obtain ⟨es, htrace, hes⟩ := htrace
    exact queueKept_of_bus_eq hi2c ⟨es, htrace, hes .i2cData⟩
  | register r v hv hi2c _ _ htrace => exact queueKept_of_register hv (hi2c ▸ written_onBus r v s) htrace
  | delivery _ hi2c _ _ htrace => exact queueKept_of_bus_eq hi2c ⟨_, htrace, by simp⟩
  | leaves hi2c _ _ _ htrace => exact queueKept_of_bus_eq hi2c ⟨_, htrace, by simp⟩

theorem queueKept_of_agent {s t : State} (h : AgentOnBus s.i2c t.i2c) (htrace : t.core.trace = s.core.trace) :
    QueueKept s t := by
  have hquiet : ∃ es, t.core.trace = s.core.trace ++ es ∧ ∀ v, .wr .i2cData v ∉ es := ⟨[], by simp [htrace], nofun⟩
  cases h with
  | nothing h => exact queueKept_of_bus_eq h hquiet
  | shift x y q hx hq hlt h => exact .inr (.inr ⟨y, x, by rw [hq, h], hx, hlt, by rw [h], htrace⟩)
  | finish x hx hle hq hn => exact .inl ⟨hq, hquiet, .inr (.inr ⟨x, hx, hle, hn⟩)⟩
  | status w h => exact .inl ⟨by rw [h], hquiet, .inl (by rw [h])⟩

theorem step_queueKept {s t : State} (h : step s = .next t) : QueueKept s t := by
  rcases step_touches h with ⟨m, ms, rfl⟩ | h
  · refine queueKept_of_agent (agentMove_onBus m s) ?_
    rw [setScript_trace, (agentMove_core m s).1]
  · exact queueKept_of_touches h

/-! ### The moves of the bus, exactly -/

theorem oneHot_eq_twoPow (i : Nat) : Word.oneHot i = BitVec.twoPow 32 i := rfl

/-- `setBit` sets its bit and no other. -/
theorem setBit_getLsbD (v : Word) (i j : Fin 32) (b : Bool) :
    (setBit v i b).getLsbD j = if j = i then b else v.getLsbD j := by
  have hi := i.isLt
  rcases eq_or_ne j i with rfl | hne
  · cases b <;> simp [setBit, oneHot_eq_twoPow, hi]
  · have hval : j.val ≠ i.val := Fin.val_ne_of_ne hne
    cases b <;> simp [setBit, oneHot_eq_twoPow, hne, hval]

section
variable {s : State} {x : Txn} (hx : s.i2c.txn = some x)
include hx

theorem busShift_sends {b : Byte} {q : List Byte} (hq : s.i2c.txq = b :: q) (hlt : x.sent.length < x.count) :
    busShift s = { s with i2c.txq := q, i2c.txn := some { x with sent := x.sent ++ [b] } } := by
  simp only [busShift, hx, hq, if_pos hlt]

theorem busFinish_stops (hle : x.count ≤ x.sent.length) (nack : Bool) :
    busFinish nack s =
      if s.cfg.nackDetect then
        { s with
          i2c.txn := none
          i2c.stat := setBit (setBit s.i2c.stat s.cfg.doneBit true) s.cfg.nackBit nack }
      else { s with i2c.txn := none } := by
  simp only [busFinish, hx, if_neg (Nat.not_lt.mpr hle)]

end

theorem busShift_idle {s : State} (h : s.i2c.txq = [] ∨ ∀ x, s.i2c.txn = some x → x.count ≤ x.sent.length) :
    busShift s = s := by
  unfold busShift
  split
  · next x b q hx hq =>
    have hle : x.count ≤ x.sent.length := h.resolve_left (by simp [hq]) x hx
    exact if_neg (Nat.not_lt.mpr hle)
  · rfl

theorem busFinish_idle {s : State} (h : ∀ x, s.i2c.txn = some x → x.sent.length < x.count) (nack : Bool) :
    busFinish nack s = s := by
  unfold busFinish
  split
  · next x hx => exact if_pos (h x hx)
  · rfl

/-- Settles O47: the queue by what the step touches of the bus, and each move of the bus by the test R219 gives it. -/
theorem queueKeepsOrder : Obligations.QueueKeepsOrder := by
  refine ⟨fun s t h => ?queue, fun s x b q hx hq hlt => busShift_sends hx hq hlt, fun s h => busShift_idle h,
    fun s x nack hx hle hform => ?stop, fun s x nack hx hle hform hbits => ?stopDrawn,
    fun s nack h => busFinish_idle h nack, fun s bb hn => ?line, fun s bb hsome => if_neg hsome⟩
  case queue =>
    rcases step_queueKept h with ⟨hq, htrace, hx⟩ | ⟨b, hq, hx, htrace⟩ | ⟨b, x, hq, hx, hlt, hx', htrace⟩
    · exact .inl ⟨hq, htrace, hx⟩
    · exact .inr (.inl ⟨b, hq, hx, htrace⟩)
    · exact .inr (.inr ⟨b, x, hq, hx, hlt, hx', htrace⟩)
  case stop =>
    refine (busFinish_stops hx hle nack).trans ?_
    rw [hform]
    rfl
  case stopDrawn =>
    refine ⟨_, ?_, ?_, fun i hd hn => ?_, (busFinish_stops hx hle nack).trans (if_pos hform)⟩
    · rw [setBit_getLsbD, if_neg hbits, setBit_getLsbD, if_pos rfl]
    · rw [setBit_getLsbD, if_pos rfl]
    · rw [setBit_getLsbD, if_neg hn, setBit_getLsbD, if_neg hd]
  case line =>
    refine ⟨setBit s.i2c.stat Config.bbBit bb, setBit_bit_self _ _, fun i hi => ?_, if_pos hn⟩
    exact (setBit_getLsbD s.i2c.stat 12 i bb).trans (if_neg hi)

end Sys2Proof.Proofs.Bus
end

section
/-! Raising a fault (spec/60_exceptions.md R200): the record and the event, and where the program goes on (O10). -/

namespace Sys2Proof.Proofs.Faults

open Sys2Proof Sys2Proof.Machine
open Sys2Proof.Proofs.CoreMoves

/-! ### The caller that tests for the error -/

theorem toCatch_cons {x : Item} (hfail : x ≠ .catchFail) (hboot : x ≠ .catchBoot) (k : List Item) :
    toCatch (x :: k) = toCatch k := by
  cases x with
  | catchFail => exact absurd rfl hfail
  | catchBoot => exact absurd rfl hboot
  | _ => rfl

theorem pastWrite_cons {x : Item} (h : x ≠ .writeEnd) (k : List Item) : pastWrite (x :: k) = pastWrite k := by
  cases x with
  | writeEnd => exact absurd rfl h
  | _ => rfl

theorem toCatch_append {mid : List Item} (h : ∀ x ∈ mid, x ≠ .catchFail ∧ x ≠ .catchBoot) (k : List Item) :
    toCatch (mid ++ k) = toCatch k := by
  induction mid with
  | nil => rfl
  | cons x mid ih =>
    obtain ⟨⟨hfail, hboot⟩, hmid⟩ := List.forall_mem_cons.mp h
    exact (toCatch_cons hfail hboot (mid ++ k)).trans (ih hmid)

theorem pastWrite_append {mid : List Item} (h : .writeEnd ∉ mid) (k : List Item) :
    pastWrite (mid ++ k) = pastWrite k := by
  induction mid with
  | nil => rfl
  | cons x mid ih =>
    obtain ⟨hx, hmid⟩ := List.ne_and_not_mem_of_not_mem_cons h
    exact (pastWrite_cons hx.symm (mid ++ k)).trans (ih hmid)

theorem no_catch_of_not_mem {mid : List Item} (hfail : .catchFail ∉ mid) (hboot : .catchBoot ∉ mid) :
    ∀ x ∈ mid, x ≠ .catchFail ∧ x ≠ .catchBoot :=
  fun _ hx => ⟨ne_of_mem_of_not_mem hx hfail, ne_of_mem_of_not_mem hx hboot⟩

/-- A tick tests for the error and fails the step (42 R142, R146, R149). -/
theorem afterErr_catchFail {mid : List Item} (h : ∀ x ∈ mid, x ≠ .catchFail ∧ x ≠ .catchBoot) (k : List Item) :
    afterErr (mid ++ .catchFail :: k) = .op .failStep :: k := by
  simp [afterErr, toCatch_append h, toCatch]

/-- PWM_SETUP goes on behind the failed write (44 R179). -/
theorem afterErr_catchBoot {mid : List Item} (h : ∀ x ∈ mid, x ≠ .catchFail ∧ x ≠ .catchBoot) (k : List Item) :
    afterErr (mid ++ .catchBoot :: k) = k := by
  simp [afterErr, toCatch_append h, toCatch]

/-- With no test for the error ahead, the `write` in progress returns. -/
theorem afterErr_writeEnd {mid k : List Item} (h : ∀ x ∈ mid ++ k, x ≠ .catchFail ∧ x ≠ .catchBoot)
    (hmid : .writeEnd ∉ mid) : afterErr (mid ++ .writeEnd :: k) = k := by
  obtain ⟨hbefore, hbehind⟩ := List.forall_mem_append.mp h
  have hnone : toCatch k = none := by simpa [toCatch] using toCatch_append hbehind []
  have huncaught : toCatch (mid ++ .writeEnd :: k) = none := by
    rw [toCatch_append hbefore, toCatch_cons (x := .writeEnd) nofun nofun, hnone]
  simp [afterErr, huncaught, pastWrite_append hmid, pastWrite]

/-! ### The step that raises -/

/-- The record in the fault log and its event. -/
def recordFault (f : FaultCode) (w : Word) (s : State) : State :=
  { s with core.faults := s.core.faults ++ [(f, w)], core.trace := s.core.trace ++ [.fault f w] }

theorem raiseFault_returns {f : FaultCode} (h : f = .busTimeout ∨ f = .transactionFailed) (w : Word) (s : State) :
    raiseFault f w s = setCont (afterErr s.core.cont) (recordFault f w s) := by
  rcases h with rfl | rfl <;> rfl

theorem step_raise {s : State} {f : FaultCode} {w : Word} {k : List Item} (hs : s.env.script = [])
    (hk : s.core.cont = .raise f w :: k) : step s = .next (raiseFault f w (setCont k s)) := by
  rw [step_quiet hs]
  simp only [coreTurn, hk]

/-- A bus fault drops what the caller that tests for it does not want. -/
theorem step_raise_bus {s : State} {f : FaultCode} {w : Word} {k k' : List Item}
    (hf : f = .busTimeout ∨ f = .transactionFailed) (hs : s.env.script = []) (hk : s.core.cont = .raise f w :: k)
    (herr : afterErr k = k') : step s = .next (setCont k' (recordFault f w s)) := by
  rw [step_raise hs hk, raiseFault_returns hf, setCont_cont, herr]
  rfl

/-- Settles O10, by the nearest caller that tests for the error. -/
theorem raisingAFault : Obligations.RaisingAFault := by
  refine ⟨fun s w k hs hk => step_raise hs hk, fun s f w mid k hf hfail hboot hs hk => ?tick,
    fun s f w mid k hf hfail hboot hs hk => ?boot, fun s f w mid k hf hnone hend hs hk => ?untested⟩
  case tick => exact step_raise_bus hf hs hk (afterErr_catchFail (no_catch_of_not_mem hfail hboot) k)
  case boot => exact step_raise_bus hf hs hk (afterErr_catchBoot (no_catch_of_not_mem hfail hboot) k)
  case untested => exact step_raise_bus hf hs hk (afterErr_writeEnd hnone hend)

end Sys2Proof.Proofs.Faults
end

section
/-! The environment's agents (spec/60_exceptions.md R214 to R218, R224): one Timer step and the delay a reload gives
(O44, O45), the button's edge (O46), and what no agent and no step may do (O48). -/

namespace Sys2Proof.Proofs.Environment

open Sys2Proof Sys2Proof.Machine
open Sys2Proof.Proofs.Devices

/-! ### The timer (R214, R215) -/

section
variable {s : State} (hon : s.timer.ovfie = true)
include hon

theorem timerTick_counts (h : s.timer.count ≠ 0xFFFFFFFF#32) :
    timerTick s = { s with timer.count := s.timer.count + 1#32 } := by
  simp only [timerTick, hon, if_true, if_neg h]

theorem timerTick_overflows (h : s.timer.count = 0xFFFFFFFF#32) :
    timerTick s =
      { s with timer.ovf := true, timer.count := if s.cfg.timerAutoreload then s.timer.reload else 0#32 } := by
  simp only [timerTick, hon, if_true, if_pos h]

end

/-- Settles O44, by the counter's last value. -/
theorem timerTickCounts : Obligations.TimerTickCounts := by
  refine fun s hon => ⟨fun h => timerTick_counts hon h, fun h hauto => ?reload, fun h hauto => ?zero⟩
  case reload => exact (timerTick_overflows hon h).trans (by rw [if_pos hauto])
  case zero => exact (timerTick_overflows hon h).trans (by rw [if_neg (Bool.eq_false_iff.mp hauto)])

theorem ne_last_of_toNat_lt {v : Word} (h : v.toNat + 1 < 2 ^ 32) : v ≠ 0xFFFFFFFF#32 := by
  rintro rfl
  exact absurd h (by decide)

theorem eq_last_of_toNat {v : Word} (h : v.toNat + 1 = 2 ^ 32) : v = 0xFFFFFFFF#32 :=
  BitVec.eq_of_toNat_eq (Nat.succ.inj h)

theorem toNat_add_one {v : Word} (h : v.toNat + 1 < 2 ^ 32) : (v + 1#32).toNat = v.toNat + 1 := by
  rw [BitVec.toNat_add]
  exact Nat.mod_eq_of_lt h

/-- While the counter has not wrapped, OVF stays clear. -/
theorem timerSteps_before (k : Nat) {s : State} (hon : s.timer.ovfie = true) (hclear : s.timer.ovf = false)
    (hroom : s.timer.count.toNat + k < 2 ^ 32) : (timerSteps k s).timer.ovf = false := by
  induction k generalizing s with
  | zero => exact hclear
  | succ k ih =>
    have hlt : s.timer.count.toNat + 1 < 2 ^ 32 := by omega
    rw [timerSteps, timerTick_counts hon (ne_last_of_toNat_lt hlt)]
    refine ih hon hclear ?_
    rw [toNat_add_one hlt]
    omega

/-- The step that wraps the counter sets OVF. -/
theorem timerSteps_wrap (k : Nat) {s : State} (hon : s.timer.ovfie = true)
    (hlast : s.timer.count.toNat + (k + 1) = 2 ^ 32) : (timerSteps (k + 1) s).timer.ovf = true := by
  induction k generalizing s with
  | zero =>
    rw [timerSteps, timerTick_overflows hon (eq_last_of_toNat hlast)]
    rfl
  | succ k ih =>
    have hlt : s.timer.count.toNat + 1 < 2 ^ 32 := by omega
    rw [timerSteps, timerTick_counts hon (ne_last_of_toNat_lt hlt)]
    refine ih hon ?_
    rw [toNat_add_one hlt]
    omega

/-- The delay of `n` ticks and the counter it loads make up the counter's range. -/
theorem exists_delay (n : Word) :
    ∃ k, (if n.toNat = 0 then 2 ^ 32 else n.toNat) = k + 1 ∧ (2 ^ 32 - n.toNat) % 2 ^ 32 + (k + 1) = 2 ^ 32 := by
  have hn := n.isLt
  by_cases hzero : n.toNat = 0
  · exact ⟨2 ^ 32 - 1, by rw [if_pos hzero]; omega, by omega⟩
  · exact ⟨n.toNat - 1, by rw [if_neg hzero]; omega, by omega⟩

/-- Settles O45: OVF is clear until the counter wraps, and the count loaded wraps at the n-th step. -/
theorem reloadGivesDelay : Obligations.ReloadGivesDelay := by
  intro s n hon hclear hcount
  obtain ⟨k, hdelay, hrange⟩ := exists_delay n
  rw [← hcount] at hrange
  rw [hdelay]
  exact ⟨timerSteps_wrap k hon hrange, fun j hj => timerSteps_before j hon hclear (by omega)⟩

/-! ### The button (R218) -/

/-- Settles O46, by the line's bit of the stored word. -/
theorem buttonEdgeLatches : Obligations.ButtonEdgeLatches :=
  fun _ => ⟨fun h => if_pos h, fun h => if_neg (Bool.eq_false_iff.mp h)⟩

/-! ### What the environment may do (R224) -/

/-- The one agent that writes the controller is the Extra source (R205). -/
theorem agentMove_intc (m : Move) (s : State) :
    (agentMove m s).intc = s.intc ∨ (agentMove m s).intc = { s.intc with extraPend := true } := by
  cases m with
  | extra =>
    simp only [agentMove, raiseExtra]
    split
    · exact .inr rfl
    · exact .inl rfl
  | core | statBits | rawBits | prefer => exact .inl rfl
  | timer | press | busShift | busFinish | busLine =>
    refine .inl ?_
    simp only [agentMove, timerTick, buttonEdge, busShift, busFinish, busLine]
    (repeat' split) <;> rfl

theorem written_extraPend (r : Reg) (v : Word) (s : State) : (written r v s).intc.extraPend = s.intc.extraPend := by
  cases r with
  | i2cCon => rw [written_i2cCon_intc]
  | _ => rfl

theorem touches_extraPend {s t : State} (h : Touches s t) : t.intc.extraPend = s.intc.extraPend := by
  cases h with
  | nothing _ hintc => rw [hintc]
  | register r v _ _ hintc => rw [hintc, written_extraPend]
  | delivery _ _ hintc =>
    obtain ⟨w, hintc⟩ := hintc
    rw [hintc]
  | leaves _ hintc => rw [hintc]

/-- Settles O48: an agent can only set `extraPend`, and the core never writes it. -/
theorem environmentRights : Obligations.EnvironmentRights := by
  refine ⟨fun m s => ?core, fun s t h hs => ?extraPend⟩
  case core =>
    obtain ⟨hcore, hcfg, -, -⟩ := agentMove_core m s
    exact ⟨hcore, hcfg⟩
  case extraPend =>
    rcases step_touches h with ⟨m, ms, rfl⟩ | h
    · rw [setScript_intc]
      rcases agentMove_intc m s with hintc | hintc <;> rw [hintc]
      exact hs
    · rw [touches_extraPend h, hs]

end Sys2Proof.Proofs.Environment
end

section
/-! Interrupts (spec/60_exceptions.md R206 to R212, R220, R223): the pending condition (O13), delivery (O12, O14), who
enters and leaves a handler (O53), and the gate (O54). -/

namespace Sys2Proof.Proofs.Interrupts

open Sys2Proof Sys2Proof.Machine
open Sys2Proof.Proofs.CoreMoves Sys2Proof.Proofs.SequencerMain Sys2Proof.Proofs.RoundTrip
open Sys2Proof.Proofs.Devices Sys2Proof.Proofs.Environment

/-! ### The pending condition and the choice (R206, R210) -/

/-- Settles O13: each condition is the conjunction of its bits. -/
theorem pendingFromStatusBits : Obligations.PendingFromStatusBits := by
  intro s
  simp [State.pending, and_assoc, Option.isSome_iff_ne_none]

theorem anyPending_iff (s : State) :
    s.anyPending = true ↔ s.pending .timer = true ∨ s.pending .gpio = true ∨ s.pending .extra = true := by
  simp [State.anyPending, or_assoc]

/-- R207. -/
theorem deliverable_iff (s : State) :
    s.deliverable = true ↔
      s.core.ctx = .main ∧ s.core.imask = false ∧ s.intc.gate = true
        ∧ (s.pending .timer = true ∨ s.pending .gpio = true ∨ s.pending .extra = true) := by
  rw [← anyPending_iff]
  simp only [State.deliverable, Bool.and_eq_true, Bool.not_eq_true', beq_iff_eq]
  tauto

theorem chosen_of_pick {s : State} (h : s.pending s.env.pick = true) : s.chosen = s.env.pick := if_pos h

/-- The controller chooses a pending source if there is one. -/
theorem pending_chosen {s : State} (h : s.pending .timer = true ∨ s.pending .gpio = true ∨ s.pending .extra = true) :
    s.pending s.chosen = true := by
  unfold State.chosen
  split
  · assumption
  · split
    · assumption
    · next htimer =>
      have h := h.resolve_left htimer
      split
      · assumption
      · next hgpio => exact h.resolve_left hgpio

/-! ### Delivery (R207, R209, R223) -/

theorem exec_trapEntry {s : State} (h : s.deliverable = true) : exec .trapEntry s = .next (takeTrap s) :=
  trap_next.mpr ⟨by rw [ContextKept.deliverable_main h]; decide, h, rfl⟩

theorem exists_pending {s : State} {src : Source} (h : s.pending src = true) :
    s.pending .timer = true ∨ s.pending .gpio = true ∨ s.pending .extra = true := by
  cases src with
  | timer => exact .inl h
  | gpio => exact .inr (.inl h)
  | extra => exact .inr (.inr h)

/-- Settles O12: the source is the one the controller chooses, and it chooses its pick. -/
theorem trapEntryTakesInterrupt : Obligations.TrapEntryTakesInterrupt := by
  refine ⟨fun s hmain hmask hgate hpending => ?taken, fun s src hmain hmask hgate hsrc hpick => ?picked⟩
  case taken =>
    exact ⟨s.chosen, pending_chosen hpending,
      exec_trapEntry ((deliverable_iff s).mpr ⟨hmain, hmask, hgate, hpending⟩)⟩
  case picked =>
    subst hpick
    refine ⟨takeTrap s, exec_trapEntry ((deliverable_iff s).mpr ⟨hmain, hmask, hgate, exists_pending hsrc⟩), ?_⟩
    rw [Dispatcher.takeTrap_active, chosen_of_pick hsrc]

theorem coreTurn_stutters {s : State} (hm : AtMain s) (hd : s.deliverable = false) : coreTurn s = .next s := by
  obtain ⟨hmain, hnil⟩ := hm
  simp [coreTurn, hnil, idle, hmain, hd]

/-- Settles O14, by whether R207 allows a delivery. -/
theorem mainLoopDeliversOrStutters : Obligations.MainLoopDeliversOrStutters := by
  intro s hm hs
  rw [step_quiet hs]
  refine ⟨fun ⟨hgate, hmask, hpending⟩ => ?delivers, fun hnot => coreTurn_stutters hm (Bool.eq_false_iff.mpr ?stutters)⟩
  case delivers => exact coreTurn_delivers hm.2 ((deliverable_iff s).mpr ⟨hm.1, hmask, hgate, hpending⟩)
  case stutters =>
    intro hd
    obtain ⟨-, hmask, hgate, hpending⟩ := (deliverable_iff s).mp hd
    exact hnot ⟨hgate, hmask, hpending⟩

/-! ### Entry and exit of a handler (R207, R212, R220) -/

theorem agentMove_ctx (m : Move) (s : State) : (agentMove m s).core.ctx = s.core.ctx := by
  rw [(agentMove_core m s).1]

theorem touches_enters {s t : State} (h : Touches s t) (hs : s.core.ctx ≠ .handler) (ht : t.core.ctx = .handler) :
    s.deliverable = true ∧ t.intc.gate = false ∧ t.core.trace = s.core.trace ++ [.entry] := by
  cases h with
  | nothing _ _ hctx =>
    rcases hctx with hctx | ⟨-, hctx⟩
    · exact absurd (hctx.symm.trans ht) hs
    · cases hctx.symm.trans ht
  | register _ _ _ _ _ hctx => exact absurd (hctx.symm.trans ht) hs
  | delivery hd _ hintc _ htrace =>
    obtain ⟨w, hintc⟩ := hintc
    exact ⟨hd, by rw [hintc], htrace⟩
  | leaves _ _ hctx => cases hctx.symm.trans ht

theorem touches_leaves {s t : State} (h : Touches s t) (hs : s.core.ctx = .handler) (ht : t.core.ctx ≠ .handler) :
    t.core.ctx = .main ∧ t.core.saved = none ∧ t.core.trace = s.core.trace ++ [.ret] := by
  cases h with
  | nothing _ _ hctx =>
    rcases hctx with hctx | ⟨hout, -⟩
    · exact absurd (hctx.trans hs) ht
    · exact absurd hs hout
  | register _ _ _ _ _ hctx => exact absurd (hctx.trans hs) ht
  | delivery _ _ _ hctx => exact absurd hctx ht
  | leaves _ _ hctx hsaved htrace => exact ⟨hctx, hsaved, htrace⟩

/-- Settles O53: only a delivery enters a handler, only the exception return leaves it, and no agent does either. -/
theorem handlerEntryAndExit : Obligations.HandlerEntryAndExit := by
  refine ⟨fun s t h hs ht => ?entered, fun s t h hs ht => ?left⟩
  case entered =>
    rcases step_touches h with ⟨m, ms, rfl⟩ | h
    · exact absurd ((agentMove_ctx m s).symm.trans ht) hs
    · obtain ⟨hd, hgate', htrace⟩ := touches_enters h hs ht
      obtain ⟨hmain, hmask, hgate, hpending⟩ := (deliverable_iff s).mp hd
      exact ⟨hmain, hmask, hgate, hpending, hgate', htrace⟩
  case left =>
    rcases step_touches h with ⟨m, ms, rfl⟩ | h
    · exact absurd ((agentMove_ctx m s).trans hs) ht
    · exact touches_leaves h hs ht

/-! ### The gate (R207, R208) -/

theorem written_gate (r : Reg) (v : Word) (s : State) :
    (written r v s).intc.gate = s.intc.gate
      ∨ ((r = .intcNewirq ∨ r = .intcReset) ∧ (written r v s).intc.gate = true) := by
  cases r with
  | intcNewirq => exact .inr ⟨.inl rfl, rfl⟩
  | intcReset => exact .inr ⟨.inr rfl, rfl⟩
  | i2cCon => exact .inl (by rw [written_i2cCon_intc])
  | _ => exact .inl rfl

theorem eq_of_accepts_newirq {c : Params} {v : Word} (h : accepts c .intcNewirq v = true) : v = c.newirqAckValue := by
  obtain ⟨i, hi⟩ := Option.isSome_iff_exists.mp (show (wholeRow c.newirqAckValue .newirqAck v).isSome = true from h)
  exact (wholeRow_eq_some.mp hi).1

theorem eq_of_accepts_intcReset {c : Params} {v : Word} (h : accepts c .intcReset v = true) :
    v = c.intcResetValue := by
  obtain ⟨i, hi⟩ := Option.isSome_iff_exists.mp (show (wholeRow c.intcResetValue .intcReset v).isSome = true from h)
  exact (wholeRow_eq_some.mp hi).1

/-- What the gate's rules ask of a step. -/
def GateRule (s t : State) : Prop :=
  (s.intc.gate = true → t.intc.gate = false → t.core.trace = s.core.trace ++ [.entry])
  ∧ (s.intc.gate = false → t.intc.gate = true →
      t.core.trace = s.core.trace ++ [.wr .intcNewirq s.cfg.newirqAckValue]
      ∨ t.core.trace = s.core.trace ++ [.wr .intcReset s.cfg.intcResetValue])

theorem gateRule_of_eq {s t : State} (h : t.intc.gate = s.intc.gate) : GateRule s t :=
  (unchanged_arms_nothing h).symm

theorem gateRule_of_register {r : Reg} {v : Word} {s t : State} (hv : accepts s.cfg r v = true)
    (hintc : t.intc = (written r v s).intc)
    (htrace : WriteTraced r v s t) : GateRule s t := by
  have hgate := written_gate r v s
  rw [← hintc] at hgate
  rcases hgate with hkeep | ⟨hr, hopen⟩
  · exact gateRule_of_eq hkeep
  · refine ⟨fun _ hclosed => absurd (hopen.symm.trans hclosed) (by decide), fun _ _ => ?_⟩
    rcases hr with rfl | rfl
    · rw [← eq_of_accepts_newirq hv]
      exact .inl (htrace.event nofun)
    · rw [← eq_of_accepts_intcReset hv]
      exact .inr (htrace.event nofun)

theorem gateRule_of_touches {s t : State} (h : Touches s t) : GateRule s t := by
  cases h with
  | nothing _ hintc => exact gateRule_of_eq (by rw [hintc])
  | register r v hv _ hintc _ htrace => exact gateRule_of_register hv hintc htrace
  | delivery _ _ hintc _ htrace =>
    obtain ⟨w, hintc⟩ := hintc
    exact ⟨fun _ _ => htrace, fun _ hopen => by rw [hintc] at hopen; cases hopen⟩
  | leaves _ hintc => exact gateRule_of_eq (by rw [hintc])

/-- Settles O54: a delivery closes the gate, two register writes open it, and no agent moves it. -/
theorem gateRules : Obligations.GateRules := by
  intro s t h
  rcases step_touches h with ⟨m, ms, rfl⟩ | h
  · have hgate : (agentMove m s).intc.gate = s.intc.gate := by
      rcases agentMove_intc m s with hintc | hintc <;> rw [hintc]
    exact gateRule_of_eq (t := setScript ms (agentMove m s)) hgate
  · exact gateRule_of_touches h

end Sys2Proof.Proofs.Interrupts
end

section
/-! The forms an instruction stops on by name (O15): the nested and re-entrant ones (spec/60_exceptions.md R212,
40_dispatcher.md R107, 41_i2c_master.md R128), and those a configuration, a word or a precondition excludes. -/

namespace Sys2Proof.Proofs.Refused

open Sys2Proof Sys2Proof.Machine
open Sys2Proof.Proofs.Unlisted Sys2Proof.Proofs.Interrupts

theorem trap_nested {s : State} (h : s.core.ctx = .handler) : exec .trapEntry s = .refused .nestedTrap := if_pos h

theorem trap_not_deliverable {s : State} (hctx : s.core.ctx ≠ .handler) (hd : ¬s.deliverable = true) :
    exec .trapEntry s = .refused .notDeliverable :=
  (if_neg hctx).trans (if_neg hd)

theorem dispatchInProgress_iff (s : State) : dispatchInProgress s = true ↔ .op .excReturn ∈ s.core.cont := by
  simp [dispatchInProgress]

theorem writeInProgress_iff (s : State) : writeInProgress s = true ↔ .writeEnd ∈ s.core.cont := by
  simp [writeInProgress]

theorem write_reentered {s : State} (h : .writeEnd ∈ s.core.cont) (a d : Byte) :
    exec (.write a d) s = .refused .writeReentered := if_pos ((writeInProgress_iff s).mpr h)

theorem write_from_main {s : State} (h : .writeEnd ∉ s.core.cont) (hmain : s.core.ctx = .main)
    (hopen : s.core.imask = false) (a d : Byte) : exec (.write a d) s = .refused .writeFromMain :=
  (if_neg (mt (writeInProgress_iff s).mp h)).trans (if_pos ⟨hmain, hopen⟩)

theorem dispatchUnknown_absent {s : State} (h : s.cfg.unknownIrqPolicy = .twoWay) (w : Word) :
    exec (.dispatchUnknown w) s = .refused .absentForm := by
  simp only [exec, execDispatchUnknown, h]

theorem completeCheck_absent {s : State} (h : s.cfg.nackDetect = false) (a : Byte) :
    exec (.completeCheck a) s = .refused .absentForm := if_neg (Bool.eq_false_iff.mp h)

theorem intcMasken_unlisted {s : State} {v : Word} (htimer : v ≠ s.cfg.maskenTimerValue)
    (hgpio : v ≠ s.cfg.maskenGpioValue) : exec (.intcMasken v) s = .refused (.unlistedWord .intcMasken v) :=
  regWrite_refused (accepts_of_regRow_none (if_neg (not_or.mpr ⟨htimer, hgpio⟩)))

theorem dispatch_nested {s : State} (h : .op .excReturn ∈ s.core.cont) :
    exec .dispatch s = .refused .nestedTrap := if_pos ((dispatchInProgress_iff s).mpr h)

theorem enableInterrupts_in_handler {s : State} (h : s.core.ctx = .handler) :
    exec .enableInterrupts s = .refused .unmaskInHandler := if_pos h

theorem tickStep_outside {s : State} (h : ¬(s.core.armed = true ∧ s.core.steps < 200)) :
    exec .tickStep s = .refused .precondition := if_neg h

theorem countStep_outside {s : State} (h : ¬s.core.steps < 200) : exec .countStep s = .refused .precondition :=
  if_neg h

theorem arm_stepping {s : State} (h : s.core.armed = true) : exec .arm s = .refused .precondition :=
  if_neg (by simp [h])

theorem sendRow_refused {i : Instr} {s : State} (h : ¬i.WellFormed s.cfg = true) (a d : Byte) :
    sendRow i a d s = .refused (.unlistedXact a d) := if_neg h

/-- Settles O15: in each form one of the instruction's tests answers the refusal. -/
theorem formsRefused : Obligations.FormsRefused := by
  refine ⟨fun s => trap_nested, fun s hctx h => trap_not_deliverable hctx (mt (deliverable_iff s).mp h),
    fun s => dispatch_nested, fun s a d h => write_reentered h a d,
    fun s a d h hmain hopen => write_from_main h hmain hopen a d, fun s => enableInterrupts_in_handler,
    fun s w h => dispatchUnknown_absent h w, fun s a h => completeCheck_absent h a, fun s v => intcMasken_unlisted,
    fun s => tickStep_outside, fun s => countStep_outside, fun s => arm_stepping,
    fun s => Dispatcher.exec_excReturn_unsaved, fun s d hhigh hlow => ?undriven⟩
  case undriven =>
    have hdrive : ¬s.cfg.isDrive d = true := by simp [Params.isDrive, hhigh, hlow]
    exact ⟨sendRow_refused (i := .phaseCh17 d) hdrive _ _, sendRow_refused (i := .phaseCh13 d) hdrive _ _,
      sendRow_refused (i := .phaseCh1b d) hdrive _ _, sendRow_refused (i := .phaseCh1f d) hdrive _ _⟩

end Sys2Proof.Proofs.Refused
end

section
/-! Boot as one run under the eager-bus schedule (spec/70_reset_and_hazards.md R231, R233 to R235; O41): I2C_INIT, the
setup pairs by induction on their list, and the configuration words up to Main. -/

namespace Sys2Proof.Proofs.Boot

open Sys2Proof Sys2Proof.Machine
open Sys2Proof.Proofs.CoreMoves Sys2Proof.Proofs.Dispatcher Sys2Proof.Proofs.Master
open Sys2Proof.Proofs.Script Sys2Proof.Proofs.Sequencer Sys2Proof.Proofs.Peripheral Sys2Proof.Proofs.Bus

/-! ### The setup pairs (44_peripheral_ops.md R179) -/

/-- What setup writes may change: what `Emits` lets change, the count, IE and data words, and CON, which may
hold the transfer word. -/
structure SetsUp (es : List Event) (s t : State) : Prop extends Emits es s t where
  gpio : t.gpio = s.gpio
  intc : t.intc = s.intc
  oa : t.i2c.oa = s.i2c.oa
  sa : t.i2c.sa = s.i2c.sa
  con : t.i2c.con = s.i2c.con ∨ t.i2c.con = Config.conXferWord

theorem SetsUp.refl (s : State) : SetsUp [] s s := ⟨.refl s, rfl, rfl, rfl, rfl, .inl rfl⟩

theorem SetsUp.trans {es es' : List Event} {s t u : State} (h : SetsUp es s t) (h' : SetsUp es' t u) :
    SetsUp (es ++ es') s u where
  toEmits := h.toEmits.trans h'.toEmits
  gpio := h'.gpio.trans h.gpio
  intc := h'.intc.trans h.intc
  oa := h'.oa.trans h.oa
  sa := h'.sa.trans h.sa
  con := h'.con.elim (fun hkept => h.con.imp hkept.trans hkept.trans) .inr

/-- Boot may send the next setup pair: the bus is free, without COMPLETE_CHECK. -/
structure CanSetUp (s : State) : Prop where
  boot : s.core.ctx = .boot
  unchecked : s.cfg.nackDetect = false
  free : s.i2c.stat.getLsbD 12 = false
  txq : s.i2c.txq = []
  txn : s.i2c.txn = none

theorem CanSetUp.after {es : List Event} {s t : State} (h : CanSetUp s) (he : Emits es s t) : CanSetUp t :=
  ⟨he.core.ctx.trans h.boot, he.core.cfg ▸ h.unchecked, he.stat ▸ h.free, he.txq.trans h.txq, he.txn.trans h.txn⟩

theorem setsUp_sendWrite {s : State} (h : CanSetUp s) (p : Byte × Byte) :
    SetsUp (writeEvents s.i2c.stat p) s (sendWrite p s) := by
  rw [sendWrite, issueWrite_eq]
  exact ⟨⟨⟨rfl, rfl⟩, rfl, rfl, rfl, h.txq.symm, h.txn.symm⟩, rfl, rfl, rfl, rfl, .inr rfl⟩

theorem writeEnd_not_mem_setupPairs (ps : List (Byte × Byte)) : .writeEnd ∉ setupPairs ps := by
  simp [setupPairs_eq_flatMap]

/-- The mark after a setup pair, on one move of the core. -/
theorem runs_catchBoot (k : List Item) (ms : List Move) (s : State) :
    Runs 1 (setScript (.core :: ms) (setCont (.catchBoot :: k) s)) (setScript ms (setCont k s)) :=
  .step (step_core_move rfl) (.refl _)

/-- The setup pairs under the eager-bus schedule: fifteen moves for each, in front of the program `k`. -/
theorem runs_setupPairs {k : List Item} (hk : .writeEnd ∉ k) (ms : List Move) (ps : List (Byte × Byte)) {s : State}
    (h : CanSetUp s) :
    ∃ t, Runs (15 * ps.length)
        (setScript (ps.flatMap (fun _ => eagerWrite ++ [.core]) ++ ms) (setCont (setupPairs ps ++ k) s))
        (setScript ms (setCont k t))
      ∧ SetsUp (ps.flatMap (writeEvents s.i2c.stat)) s t := by
  induction ps generalizing s with
  | nil => exact ⟨s, .refl _, .refl s⟩
  | cons p ps ih =>
    have hpair : SetsUp (writeEvents s.i2c.stat p) s (sendWrite p s) := setsUp_sendWrite h p
    obtain ⟨t, hrest, hsets⟩ := ih (h.after hpair.toEmits)
    have hrest' : .writeEnd ∉ .catchBoot :: (setupPairs ps ++ k) := by simp [hk, writeEnd_not_mem_setupPairs]
    have hmask : s.core.ctx = .main → s.core.imask = true := by simp [h.boot]
    have hwrite := runs_eagerWrite h.unchecked h.free h.txq hrest' hmask p
    refine ⟨t, ?run, ?sets⟩
    case run =>
      have hcount : 15 * (p :: ps).length = 14 + (1 + 15 * ps.length) := by rw [List.length_cons]; omega
      rw [hcount]
      exact runs_trans (hwrite _) (runs_trans (runs_catchBoot _ _ _) hrest)
    case sets =>
      rw [hpair.stat] at hsets
      exact hpair.trans hsets

/-! ### Boot before and after its setup pairs (R233) -/

theorem exec_i2cInit (k : List Item) (s : State) :
    exec .i2cInit (setCont k s) = .next (setCont (.op .i2cOa :: .op .i2cSa :: .op .conInit :: k) s) := rfl

theorem exec_timerConfig (k : List Item) (s : State) :
    exec .timerConfig (setCont k s) = .next (setCont (.op .timerReset :: .op .timerOvfie :: k) s) := rfl

theorem exec_intcConfig (k : List Item) (s : State) :
    exec .intcConfig (setCont k s) = .next
      (setCont (.op .intcReset :: .op (.intcMasken s.cfg.maskenTimerValue) ::
        .op (.intcMasken s.cfg.maskenGpioValue) :: k) s) := rfl

/-- I2C_INIT's three words (44_peripheral_ops.md R175). -/
def i2cInited (s : State) : State :=
  written .i2cCon Config.conInitWord (written .i2cSa s.cfg.slaveAddr (written .i2cOa s.cfg.ownAddr s))

theorem i2cInited_eq (s : State) :
    i2cInited s =
      { s with
        core.trace := s.core.trace ++
          [.wr .i2cOa s.cfg.ownAddr, .wr .i2cSa s.cfg.slaveAddr, .wr .i2cCon 0x00008000#32]
        i2c.oa := s.cfg.ownAddr
        i2c.sa := s.cfg.slaveAddr
        i2c.con := Config.conInitWord } := by
  rw [i2cInited, written_conInit]
  simp [written, deviceEffect, emit, Config.conInitWord]

/-- What is left of boot after its setup pairs. -/
def bootRest : List Item := [.op .gpioEdgeConfig, .op .timerConfig, .op .intcConfig, .op .enableInterrupts]

/-- TIMER_CONFIG's two words (44_peripheral_ops.md R178). -/
def timerConfigured (s : State) : State :=
  written .timerOvfie s.cfg.ovfieValue (written .timerReset s.cfg.timerResetValue s)

/-- INTC_CONFIG's three words (44_peripheral_ops.md R177). -/
def intcConfigured (s : State) : State :=
  written .intcMasken s.cfg.maskenGpioValue
    (written .intcMasken s.cfg.maskenTimerValue (written .intcReset s.cfg.intcResetValue s))

/-- Boot after its setup pairs: edge detection, the timer and the controller configured, and Main. -/
def bootFinished (s : State) : State :=
  enterMain (intcConfigured (timerConfigured (written .gpioFalldet (buttonWord s.cfg) s)))

theorem bootFinished_eq (s : State) :
    bootFinished s =
      { s with
        core.trace := s.core.trace ++
          [.wr .gpioFalldet (1#32 <<< s.cfg.buttonLine.val), .wr .timerReset s.cfg.timerResetValue,
            .wr .timerOvfie s.cfg.ovfieValue, .wr .intcReset s.cfg.intcResetValue,
            .wr .intcMasken s.cfg.maskenTimerValue, .wr .intcMasken s.cfg.maskenGpioValue]
        core.imask := false
        core.ctx := .main
        gpio.falldet := buttonWord s.cfg
        timer.count := Config.freeWord s.fresh
        timer.reload := Config.freeWord (s.fresh + 1)
        timer.ovf := false
        timer.ovfie := true
        intc.enTimer := true
        intc.enGpio := true
        intc.gate := true
        fresh := s.fresh + 2 } := by
  simp [bootFinished, timerConfigured, intcConfigured, enterMain, written, deviceEffect, emit, buttonWord_eq]

/-- Boot up to its setup pairs, under a quiet script. -/
theorem runs_i2cInited {s : State} (hs : s.env.script = []) :
    Runs 5 (setCont bootProgram s) (setCont (setupPairs s.cfg.pwmSetupSeq ++ bootRest) (i2cInited s)) :=
  .op hs (exec_i2cInit _ s) <| .op hs (exec_i2cOa _ s) <| .op hs (exec_i2cSa _ _) <| .op hs (exec_conInit _ _) <|
    .op hs (exec_pwmSetup _ _) (.refl _)

theorem runs_timerConfig {n : Nat} {s t : State} {k : List Item} (hs : s.env.script = [])
    (hr : Runs n (setCont k (timerConfigured s)) t) : Runs (n + 3) (setCont (.op .timerConfig :: k) s) t :=
  .op hs (exec_timerConfig k s) <| .op hs (exec_timerReset _ s) <| .op hs (exec_timerOvfie k _) hr

theorem runs_intcConfig {n : Nat} {s t : State} {k : List Item} (hs : s.env.script = [])
    (hr : Runs n (setCont k (intcConfigured s)) t) : Runs (n + 4) (setCont (.op .intcConfig :: k) s) t :=
  .op hs (exec_intcConfig k s) <| .op hs (exec_intcReset _ s) <| .op hs (exec_intcMasken (.inl rfl) _) <|
    .op hs (exec_intcMasken (.inr rfl) k) hr

/-- Boot after its setup pairs, under a quiet script. -/
theorem runs_bootFinished {s : State} (hs : s.env.script = []) (hctx : s.core.ctx = .boot) :
    Runs 9 (setCont bootRest s) (setCont [] (bootFinished s)) := by
  have hopen : (intcConfigured (timerConfigured (written .gpioFalldet (buttonWord s.cfg) s))).core.ctx ≠ .handler := by
    simp [intcConfigured, timerConfigured, written_core, hctx]
  exact .op hs (exec_gpioEdgeConfig _ s) <| runs_timerConfig hs <| runs_intcConfig hs <|
    .op hs (exec_enableInterrupts hopen []) (.refl _)

/-! ### Boot whole -/

theorem eagerBoot_length (c : Params) : (eagerBoot c).length = 5 + (15 * c.pwmSetupSeq.length + 9) := by
  simp [eagerBoot, eagerWrite]
  omega

/-- The button line's word has that line's bit set (44_peripheral_ops.md R176). -/
theorem buttonWord_bit (c : Params) : (buttonWord c).bit c.buttonLine = true := by
  simp [buttonWord, oneHot_eq_twoPow, Word.bit]

/-- Boot from its program on a free bus: its words, its setup pairs, and the configuration up to Main. -/
theorem runs_eagerBoot {s : State} (h : CanSetUp s) :
    ∃ t, Runs (eagerBoot s.cfg).length (setScript (eagerBoot s.cfg) (setCont bootProgram s))
        (setScript [] (setCont [] (bootFinished t)))
      ∧ SetsUp (s.cfg.pwmSetupSeq.flatMap (writeEvents s.i2c.stat)) (i2cInited s) t := by
  have hinited : CanSetUp (i2cInited s) := ⟨h.boot, h.unchecked, h.free, h.txq, h.txn⟩
  obtain ⟨t, hpairs, ht⟩ := runs_setupPairs (k := bootRest) (by decide) (List.replicate 9 .core) s.cfg.pwmSetupSeq
    hinited
  have hctx : t.core.ctx = .boot := ht.core.ctx.trans hinited.boot
  have hstart : Runs 5 (setScript [] (setCont bootProgram s))
      (setScript [] (setCont (setupPairs s.cfg.pwmSetupSeq ++ bootRest) (i2cInited s))) :=
    runs_i2cInited (s := setScript [] s) rfl
  have hrest : Runs 9 (setScript [] (setCont bootRest t)) (setScript [] (setCont [] (bootFinished t))) :=
    runs_bootFinished (s := setScript [] t) rfl hctx
  refine ⟨t, ?run, ht⟩
  rw [eagerBoot_length, eagerBoot, List.append_assoc]
  exact runs_trans (runs_scripted hstart _) (runs_trans hpairs (runs_scripted hrest []))

/-- Settles O41: I2C_INIT and the setup pairs leave what boot has not yet written, and the configuration words set the
rest of clean entry. -/
theorem bootReachesCleanEntry : Obligations.BootReachesCleanEntry := by
  intro s hcore hscript hform hextra hfree hq hn
  obtain ⟨t, hrun, ht⟩ := runs_eagerBoot (s := s) ⟨by rw [hcore]; rfl, hform, hfree, hq, hn⟩
  rw [setCont_of_cont (by rw [hcore]; rfl), setScript_of_script hscript] at hrun
  have hbb : s.i2c.stat.bit Config.bbBit = false := hfree
  have hcon : t.i2c.con = Config.conInitWord ∨ t.i2c.con = Config.conXferWord := ht.con
  refine ⟨_, hrun, ?after, rfl, ?latch, ?trace⟩
  case after =>
    simp [AfterBoot, State.busy, bootFinished_eq, i2cInited_eq, hcore, State.reset, ht.core.armed, ht.core.phase,
      ht.core.steps, ht.core.saved, ht.core.faults, ht.core.unknownIrqCount, ht.core.cfg, ht.intc, ht.oa, ht.sa,
      ht.stat, ht.txq, ht.txn, buttonWord_bit, hcon, hextra, hbb, hq, hn]
  case latch => simp [bootFinished_eq, i2cInited_eq, ht.gpio]
  case trace => simp [bootFinished_eq, i2cInited_eq, hcore, State.reset, ht.core.cfg, ht.trace]

end Sys2Proof.Proofs.Boot
end
